-- ==== Sys2Proof/Word.lean ====
section
/-! DEFINITION. The bit-vector types of the block: bytes, 16-bit register values, command words and the frame index. -/

namespace Sys2Proof

/-- An 8-bit register address, register value, wire byte or the shift register (10_state.md R11, R21). -/
abbrev Byte := BitVec 8

/-- A 16-bit register value, read result or byte count (10_state.md R21, R23). -/
abbrev Half := BitVec 16

/-- A 32-bit host command word (30_encoding.md R61). -/
abbrev Word := BitVec 32

/-- The index of a frame byte: COUNT_W + 1 = 17 bits (10_state.md R22). -/
abbrev FrameIndex := BitVec 17

end Sys2Proof
end

