-- ==== Sys2Proof/Config.lean ====
section
/-! DEFINITION. The parameters of the block (00_scope.md R6) and the free values of its environment, which have no body,
so that no proof can rest on what they are. -/

namespace Sys2Proof

/-- The two open parameters of 00_scope.md R6, with the spec's defaults. A state carries them, no step writes them, and a
statement over all states holds for every value of both (log entry 5). -/
structure Params where
  /-- `DUMMY`, the byte sent in every dummy position of a read frame (92_eei_decisions.md D3). -/
  dummy : Byte := 0x00#8
  /-- `TIMEOUT`, the bound on the polls of one XFER; `none` is the unbounded busy-wait (92_eei_decisions.md D9). -/
  timeout : Option Nat := none
  deriving DecidableEq, Repr

/-- `COUNT_W`, fixed at 16 by the command word's `data` field (00_scope.md R6, 92_eei_decisions.md D6). -/
def Config.countWidth : Nat := 16

/-- The answer of a free CLOCK SOURCE at the poll with this number: `env.tick()` under no law (40_shift_engine.md R86).
A free value: log entry 6. -/
opaque Config.tick : Nat → Bool

/-- The bit an oracle DEVICE presents at the rising edge of the poll with this number: `env.miso()` under no law
(40_shift_engine.md R84, U3). A free value: log entry 7. -/
opaque Config.miso : Nat → Bool

/-- The level of the data-in line at the poll with this number while nothing drives it and the pull-up is off
(10_state.md R18: the pull-up is off while INITED is 0). A free value: log entry 14. -/
opaque Config.misoFloating : Nat → Bool

/-- The level of the driven MOSI pin after a reset and before the first load of SR (10_state.md R19, U2). A free value:
log entry 2. -/
opaque Config.mosiBeforeLoad : Nat → Bool

end Sys2Proof
end

