-- ==== Sys2Proof/Machine/State.lean ====
section
/-! DEFINITION. The state: the block's tuple S1 to S15 (10_state.md R10), its output ports, the inputs its environment
holds ready, and an observer's trace. Everything is plain data. -/

namespace Sys2Proof.Machine

/-- The sequencer phase SEQ (10_state.md R20); it takes the place of a program counter. -/
inductive Seq where
  /-- No command in flight. -/
  | idle
  /-- Command latched, about to assert chip-select. -/
  | sel
  /-- About to load SR with frame byte IDX. -/
  | load
  /-- Polling XDONE, pulsing. -/
  | shift
  /-- All bytes done, about to deassert chip-select. -/
  | desel
  /-- About to raise the response. -/
  | resp
  /-- A fault was taken; quiescent until reset (60_exceptions.md R157). -/
  | fault
  deriving DecidableEq, Repr

/-- The faults the block itself takes (60_exceptions.md R150). Taking one is a next state, by the fault entry of R156. -/
inductive BusFault where
  | illegalOp
  | notInit
  | timeout
  deriving DecidableEq, Repr

/-- A response (10_state.md R27): a sum type, so that Done and Fault carry no read data. -/
inductive Response where
  | done
  | data (value : Half)
  | fault (code : BitVec 2)
  deriving DecidableEq, Repr

/-- What an observer of the block sees, in order: the pin events of 00_scope.md R8, emitted only when a driven pin's level
changes, and the two output ports. -/
inductive Event where
  /-- The outputs become driven (`OE(1)`), or stop being driven at a reset (log entry 8). -/
  | oe (driven : Bool)
  /-- The chip-select pin changes to this level. -/
  | cs (level : Bool)
  /-- The clock pin changes to this level. -/
  | sclk (level : Bool)
  /-- The data-out pin changes to this level. -/
  | mosi (level : Bool)
  /-- At a rising clock edge: the data-out level a device takes and the data-in level the block samples. No pin event: the
  note `[samples m]` of 40_shift_engine.md R90. -/
  | sample (mosi miso : Bool)
  /-- A byte offered on the stream port (10_state.md R28). -/
  | stream (byte : Byte)
  /-- A response raised (10_state.md R27). -/
  | respond (response : Response)
  deriving DecidableEq, Repr

/-- The fixture device's byte registers: address and byte pairs, addresses strictly rising, none equal to what an unlisted
address reads as (`Memory.wf`). -/
abbrev Memory := List Host.Cell

/-- The fixture device of 95_test_vectors.md section 3.1: the spec's own stand-in for the simulated register store, no real
device. `pos`, `cmd` and `ptr` belong to the frame; `edges` and `heard` to the byte in progress. -/
structure Fixture where
  regs : Memory := []
  fifo : List Byte := []
  resets : Nat := 0
  pos : Nat := 0
  cmd : Byte := 0x00#8
  ptr : Byte := 0x00#8
  /-- Rising edges seen in the byte in progress. -/
  edges : Nat := 0
  /-- The data-out levels taken at those edges, the first one highest. -/
  heard : Byte := 0x00#8
  deriving DecidableEq, Repr

/-- What answers on the data-in line (40_shift_engine.md R84). -/
inductive Device where
  /-- Any device: each bit is the free value `Config.miso`. -/
  | oracle
  /-- A device that drives these bits, one per rising edge, then leaves the line undriven (R84). No bits: no device. -/
  | script (bits : List Bool)
  /-- The fixture device. -/
  | fixture (f : Fixture)
  deriving DecidableEq, Repr

/-- What decides whether a pulse takes effect (40_shift_engine.md R86). -/
inductive Clock where
  /-- Any clock source: each answer is the free value `Config.tick`. -/
  | free
  /-- These answers, then `after` at every later poll: `script [] true` never stalls, `script [] false` hangs. -/
  | script (answers : List Bool) (after : Bool)
  deriving DecidableEq, Repr

/-- Why the machine stops with a fault. The block's own faults are not here: they are taken (R156). Both stand for
states that no run from reset reaches; stopping there is safe. -/
inductive Fault where
  /-- `step` raises it when SEQ says that a command is in flight and the OP latch holds a reserved opcode, which no accept
  writes (42_register_protocol.md R134). Safe: the spec gives such a state no behaviour. -/
  | noCommandInFlight
  /-- XFER load raises it when IDX is past the frame's end, against the precondition of 40_shift_engine.md R87. Safe: the
  spec gives no byte to load. -/
  | noFrameByte
  deriving DecidableEq, Repr

/-- Why the machine refuses to run. -/
inductive Refusal where
  /-- `exec` raises it for an instruction without a meaning. Safe. No arm does. -/
  | notModelled (mnemonic : String)
  /-- `step` raises it when `TIMEOUT` is a number below 8: a configuration the model refuses (40_shift_engine.md R88, U10).
  Safe. -/
  | timeoutBelowEight
  deriving DecidableEq, Repr

/-- POLLS as it is present: a counter of `width` bits (10_state.md R15). -/
structure PollCounter where
  width : Nat
  count : BitVec width
  deriving DecidableEq, Repr

/-- The state of the block and of the environment it sees. -/
@[ext]
structure State where
  /-- S1, the shift register (10_state.md R11). -/
  sr : Byte
  /-- S2, the transfer-complete flag (R12). -/
  xdone : Bool
  /-- S3, pulses that took effect in this transfer (R13). -/
  bitcnt : BitVec 4
  /-- S4, the data-in sample (R14). -/
  latch : Bool
  /-- S5, polls spent in this transfer; absent when `TIMEOUT` is `none` (R15). -/
  polls : Option PollCounter
  /-- S6, the clock pin's latch (R16). -/
  sclk : Bool
  /-- S7, the chip-select pin's latch, active low (R17). -/
  csN : Bool
  /-- S8, pins configured (R18). -/
  inited : Bool
  /-- S9, the sequencer phase (R20). -/
  seq : Seq
  /-- S10, opcode of the command in flight (R21). -/
  op : BitVec 4
  /-- S11, address of the command in flight (R21). -/
  addr : Byte
  /-- S12, write value or byte count of the command in flight (R21). -/
  wdata : Half
  /-- S13, index of the frame byte being transferred (R22). -/
  idx : FrameIndex
  /-- S14, the read result (R23). -/
  rdata : Half
  /-- S15, the sticky fault code (R24). -/
  err : BitVec 2
  /-- The response port in the engine step just done: `rsp_valid` is `isSome` (R27). -/
  rsp : Option Response
  /-- The stream port in the engine step just done: `sb_valid` is `isSome` (R28). -/
  sb : Option Byte
  /-- SR was written since reset; before that the MOSI level is a free value (R19, U2; log entry 2). -/
  srLoaded : Bool
  /-- The parameters; no step writes them (00_scope.md R6). -/
  params : Params
  /-- Engine steps for which the `rst` input stays asserted (70_reset_and_hazards.md R170). -/
  rst : Nat
  /-- The words the HOST holds, the first one on the command port (10_state.md R26). -/
  cmds : List Word
  /-- The CLOCK SOURCE (40_shift_engine.md R86). -/
  clock : Clock
  /-- The DEVICE on the bus (40_shift_engine.md R84). -/
  device : Device
  /-- Polls so far: the argument of the free values. -/
  draws : Nat
  /-- What an observer saw, oldest first. -/
  trace : List Event
  deriving DecidableEq, Repr

/-- Right after reset (70_reset_and_hazards.md R170). SR, LATCH, OP, ADDR, WDATA and RDATA have no value in the spec; the
zeros are this model's (DESIGN CHOICE, log entry 1). TIMEOUT is `none`, so POLLS is absent (10_state.md R15). The
environment is the free one: no command presented, any clock source, any device (log entries 3 to 7). -/
def State.reset : State where
  sr := 0x00#8
  xdone := false
  bitcnt := 0#4
  latch := false
  polls := none
  sclk := false
  csN := true
  inited := false
  seq := .idle
  op := 0x0#4
  addr := 0x00#8
  wdata := 0x0000#16
  idx := 0#17
  rdata := 0x0000#16
  err := 0#2
  rsp := none
  sb := none
  srLoaded := false
  params := {}
  rst := 0
  cmds := []
  clock := .free
  device := .oracle
  draws := 0
  trace := []

end Sys2Proof.Machine
end

