-- ==== Sys2Proof/Machine/Memory.lean ====
section
/-! DEFINITION. The fixture device's 256 byte registers (20_memory.md R40, 95_test_vectors.md section 3.1): reading and
writing one byte of a canonical list of cells. Byte is the only width; wider accesses are made of frame bytes (R43). -/

namespace Sys2Proof.Machine

/-- What a register nothing has written reads as: `0x00` at every address (95_test_vectors.md section 3.1). -/
def Memory.unlisted (_a : Nat) : Byte := 0x00#8

/-- The byte at an address. -/
def Memory.read : Memory → Nat → Byte
  | [], a => Memory.unlisted a
  | (k, v) :: rest, a => if k = a then v else Memory.read rest a

/-- Write a byte, keeping the canonical form: the value an unlisted address reads as removes the entry. -/
def Memory.write : Memory → Nat → Byte → Memory
  | [], a, v => if v = Memory.unlisted a then [] else [(a, v)]
  | (k, w) :: rest, a, v =>
    if a < k then
      if v = Memory.unlisted a then (k, w) :: rest else (a, v) :: (k, w) :: rest
    else if a = k then
      if v = Memory.unlisted a then rest else (a, v) :: rest
    else (k, w) :: Memory.write rest a v

/-- The canonical form: addresses strictly rising, inside the 256 of the register space, and no entry equal to what an
unlisted address reads as. -/
abbrev Memory.wf (m : Memory) : Prop :=
  m.Pairwise (fun x y => x.1 < y.1) ∧ ∀ c ∈ m, c.1 < 256 ∧ c.2 ≠ Memory.unlisted c.1

end Sys2Proof.Machine
end

