-- ==== Sys2Proof/Machine/Environment.lean ====
section
/-! DEFINITION. What stands outside the block and answers it: the CLOCK SOURCE (40_shift_engine.md R86) and the DEVICE
(R84), the fixture device (95_test_vectors.md section 3.1) among them. -/

namespace Sys2Proof.Machine

/-- The answer of `env.tick()` at the poll with this number (R86). -/
def Clock.answer (c : Clock) (n : Nat) : Bool :=
  match c with
  | .free => Config.tick n
  | .script [] after => after
  | .script (b :: _) _ => b

/-- The clock source after it has answered once. -/
def Clock.advance : Clock → Clock
  | .free => .free
  | .script [] after => .script [] after
  | .script (_ :: bs) after => .script bs after

/-- The byte the fixture returns at its present byte position, fixed at the start of the byte. -/
def Fixture.answer (f : Fixture) : Byte :=
  if f.pos = 0 then 0x00#8
  else if f.cmd = 0x0B#8 ∧ 2 ≤ f.pos then Memory.read f.regs f.ptr.toNat
  else if f.cmd = 0x0D#8 then f.fifo.headD 0x00#8
  else 0x00#8

/-- The register the byte at the present position is stored in, if it is a data byte of a write frame. -/
def Fixture.storeAddr (f : Fixture) : Option Nat :=
  if f.cmd = 0x0A#8 ∧ 2 ≤ f.pos then some f.ptr.toNat else none

/-- The effect of a completed byte `out` at the present byte position. The only stores are at `storeAddr`; a store of `0x52`
to `0x1F` is counted as a soft reset. -/
def Fixture.byteDone (f : Fixture) (out : Byte) : Fixture :=
  let g := { f with pos := f.pos + 1, edges := 0, heard := 0x00#8 }
  if f.pos = 0 then { g with cmd := out }
  else
    match f.storeAddr with
    | some a =>
      { g with
        regs := Memory.write f.regs a out
        resets := if f.ptr = 0x1F#8 ∧ out = 0x52#8 then f.resets + 1 else f.resets
        ptr := f.ptr + 1#8 }
    | none =>
      if f.cmd = 0x0A#8 then { g with ptr := out }
      else if f.cmd = 0x0B#8 then { g with ptr := if f.pos = 1 then out else f.ptr + 1#8 }
      else if f.cmd = 0x0D#8 then { g with fifo := f.fifo.tail }
      else g

/-- One rising edge at the fixture: it takes the data-out level; the eighth edge completes the byte. -/
def Fixture.rise (f : Fixture) (mosi : Bool) : Fixture :=
  let heard := f.heard.shiftConcat mosi
  if f.edges + 1 = 8 then f.byteDone heard else { f with edges := f.edges + 1, heard := heard }

/-- A falling edge of chip-select: a new frame begins at byte position 0; a byte left incomplete has had no effect. -/
def Fixture.select (f : Fixture) : Fixture := { f with pos := 0, edges := 0, heard := 0x00#8 }

/-- What the device drives on the data-in line at the rising edge of the poll with this number (R84); `none` where nothing
drives the line. -/
def Device.drives (d : Device) (n : Nat) : Option Bool :=
  match d with
  | .oracle => some (Config.miso n)
  | .script [] => none
  | .script (b :: _) => some b
  | .fixture f => some (f.answer.getMsbD f.edges)

/-- The level of the data-in line with the pull-up on: an undriven line reads 1 (R84, 10_state.md R30). -/
def Device.miso (d : Device) (n : Nat) : Bool := (d.drives n).getD true

/-- The device after a rising edge at which the data-out pin shows `mosi`. -/
def Device.rise (d : Device) (mosi : Bool) : Device :=
  match d with
  | .oracle => .oracle
  | .script bits => .script bits.tail
  | .fixture f => .fixture (f.rise mosi)

/-- The device after a falling edge of chip-select. -/
def Device.select (d : Device) : Device :=
  match d with
  | .oracle => .oracle
  | .script bits => .script bits
  | .fixture f => .fixture f.select

/-- The register a rising edge stores a byte in: only the eighth edge of a data byte of a fixture's write frame stores. -/
def Device.storeAddr (d : Device) : Option Nat :=
  match d with
  | .oracle => none
  | .script _ => none
  | .fixture f => if f.edges + 1 = 8 then f.storeAddr else none

/-- One byte of the attached fixture's registers; none where no fixture is attached. -/
def Device.peek (d : Device) (a : Nat) : Option Byte :=
  match d with
  | .oracle => none
  | .script _ => none
  | .fixture f => some (Memory.read f.regs a)

end Sys2Proof.Machine
end

