-- ==== Sys2Proof/Machine/Flags.lean ====
section
/-! DEFINITION. The flags: when the transfer-complete flag is set, the fault codes, the derived status values and the port
and pin levels that are functions of the state. The block has no flag set by arithmetic (10_state.md R32). -/

namespace Sys2Proof.Machine

/-- The pulse that takes BITCNT to 8 sets XDONE (10_state.md R13, 40_shift_engine.md R83). -/
def transferComplete (bitcnt : BitVec 4) : Bool := bitcnt == 8#4

/-- `code(F)` (60_exceptions.md R150). -/
def BusFault.code : BusFault → BitVec 2
  | .illegalOp => 1#2
  | .notInit => 2#2
  | .timeout => 3#2

/-- `BUSY` (10_state.md R25), the status output `st_busy` (R29). -/
def State.stBusy (s : State) : Bool := s.seq != .idle && s.seq != .fault

/-- `FRAMED` (10_state.md R25), the status output `st_framed` (R29). -/
def State.stFramed (s : State) : Bool := !s.csN

/-- The status output `st_inited` (10_state.md R29). -/
def State.stInited (s : State) : Bool := s.inited

/-- The status output `st_xdone` (10_state.md R29). -/
def State.stXdone (s : State) : Bool := s.xdone

/-- The status output `st_err` (10_state.md R29). -/
def State.stErr (s : State) : BitVec 2 := s.err

/-- `cmd_ready` (10_state.md R26). -/
def State.cmdReady (s : State) : Bool := s.seq == .idle

/-- `cmd_valid` (10_state.md R26). -/
def State.cmdValid (s : State) : Bool := !s.cmds.isEmpty

/-- `rsp_valid` (10_state.md R27). -/
def State.rspValid (s : State) : Bool := s.rsp.isSome

/-- `sb_valid` (10_state.md R28). -/
def State.sbValid (s : State) : Bool := s.sb.isSome

/-- The level SR puts on the MOSI pin: SR[7], or a free value while SR was not written since reset (10_state.md R19, U2). -/
def State.mosi (s : State) : Bool := if s.srLoaded then s.sr.msb else Config.mosiBeforeLoad s.draws

/-- The CS_N pin; `none` while it is not driven (10_state.md R30). -/
def State.pinCsN (s : State) : Option Bool := if s.inited then some s.csN else none

/-- The SCLK pin; `none` while it is not driven (10_state.md R30). -/
def State.pinSclk (s : State) : Option Bool := if s.inited then some s.sclk else none

/-- The MOSI pin; `none` while it is not driven (10_state.md R30). -/
def State.pinMosi (s : State) : Option Bool := if s.inited then some s.mosi else none

/-- The pull-up on the data-in pin is on exactly while the pins are configured (10_state.md R18). -/
def State.pullUp (s : State) : Bool := s.inited

/-- The level of the MISO pin (10_state.md R18, R30): what the device drives; where nothing drives the line, 1 with the
pull-up on and a free value with it off (log entry 14). -/
def State.pinMiso (s : State) : Bool :=
  if s.pullUp then s.device.miso s.draws else (s.device.drives s.draws).getD (Config.misoFloating s.draws)

/-- The least width that holds a value of `TIMEOUT` (10_state.md R15): `pollWidth 8 = 4`. -/
def pollWidth (timeout : Nat) : Nat := timeout.log2 + 1

/-- POLLS at 0: of the width `TIMEOUT` asks for, absent where it is `none` (10_state.md R15). -/
def freshPolls (p : Params) : Option PollCounter :=
  p.timeout.map fun t => { width := pollWidth t, count := BitVec.ofNat (pollWidth t) 0 }

/-- The counter `k` polls later, in its own width. -/
def PollCounter.plus (k : Nat) (c : PollCounter) : PollCounter := { c with count := c.count + BitVec.ofNat c.width k }

/-- POLLS as a number; 0 while it is absent. -/
def State.pollCount (s : State) : Nat :=
  match s.polls with
  | none => 0
  | some c => c.count.toNat

end Sys2Proof.Machine
end

