-- ==== Sys2Proof/Machine/Operands.lean ====
section
/-! DEFINITION. The operand forms: splitting, joining and extending values (30_encoding.md R68, 42_register_protocol.md R131),
the wire command bytes (R65), the wire frames (R66, R67) and what happens to a received byte (R70, R133). -/

namespace Sys2Proof.Machine

/-- `low-byte(v) = v[7:0]` (R68). -/
def lowByte (v : Half) : Byte := v.extractLsb' 0 8

/-- `high-byte(v) = v[15:8]` (R68). -/
def highByte (v : Half) : Byte := v.extractLsb' 8 8

/-- `{byte1, byte0}`: the byte received first is the low one (20_memory.md R43, R68). -/
def joinBytes (byte0 byte1 : Byte) : Half := byte1 ++ byte0

/-- `zext_16(byte)` (R68). -/
def zextByte (b : Byte) : Half := b.setWidth 16

/-- The count operand of RDFIFO and RDBURST: `data` as an unsigned number (R69). -/
def byteCount (data : Half) : Nat := data.toNat

/-- The wire command byte of a register write (R65). -/
def wireWrite : Byte := 0x0A#8

/-- The wire command byte of a register read (R65). -/
def wireRead : Byte := 0x0B#8

/-- The wire command byte of a FIFO read (R65). -/
def wireFifo : Byte := 0x0D#8

/-- Format W1: one data byte written (R67). -/
def frameW1 (addr value : Byte) : List Byte := [wireWrite, addr, value]

/-- Format W2: two data bytes written, the low one first (R67). -/
def frameW2 (addr : Byte) (value : Half) : List Byte := [wireWrite, addr, lowByte value, highByte value]

/-- Format R1: one data byte read (R67). -/
def frameR1 (addr dummy : Byte) : List Byte := [wireRead, addr, dummy]

/-- Format R2: two data bytes read (R67). -/
def frameR2 (addr dummy : Byte) : List Byte := [wireRead, addr, dummy, dummy]

/-- Format RN: `n` data bytes read from an address on (R67). -/
def frameRN (addr dummy : Byte) (n : Nat) : List Byte := [wireRead, addr] ++ List.replicate n dummy

/-- Format FN: `n` bytes read from the FIFO, no address (R67). -/
def frameFN (dummy : Byte) (n : Nat) : List Byte := [wireFifo] ++ List.replicate n dummy

/-- Where the byte received at one frame position goes (R70, R133). -/
inductive Route where
  /-- `keep` is false: the byte is dropped. -/
  | drop
  /-- `RDATA <- zext_16(in)`. -/
  | rdataZext
  /-- `RDATA[15:8] <- in`. -/
  | rdataHigh
  /-- Offered on the stream port. -/
  | stream
  deriving DecidableEq, Repr

/-- `keep(OP, k)` of R70. -/
def Route.kept : Route → Bool
  | .drop => false
  | .rdataZext | .rdataHigh | .stream => true

/-- The response a command ends with (42_register_protocol.md R136). -/
inductive Reply where
  | done
  | data
  deriving DecidableEq, Repr

/-- What PROTO needs to know of a command in flight: the bytes to send, where each received byte goes, and how to respond. -/
structure Command where
  frame : List Byte
  route : Nat → Route
  reply : Reply

/-- Every received byte is dropped: the write commands (R70). -/
def routeNone (_k : Nat) : Route := .drop

/-- RD8 keeps the byte at position 2 (R70). -/
def routeRd8 (k : Nat) : Route := if k = 2 then .rdataZext else .drop

/-- RD16 keeps the bytes at positions 2 and 3 (R70). -/
def routeRd16 (k : Nat) : Route := if k = 2 then .rdataZext else if k = 3 then .rdataHigh else .drop

/-- RDFIFO streams every byte after the command byte (R70). -/
def routeFifo (k : Nat) : Route := if 1 ≤ k then .stream else .drop

/-- RDBURST streams every byte after the address byte (R70). -/
def routeBurst (k : Nat) : Route := if 2 ≤ k then .stream else .drop

end Sys2Proof.Machine
end

