-- ==== Sys2Proof/Machine/Ops.lean ====
section
/-! DEFINITION. The named operations: the accessors of the pin latches, the micro-operations PULSE, XFER (load, poll,
collect), SELECT and DESELECT, accept, deliver and respond, fault entry, reset, and one engine step of a command. -/

namespace Sys2Proof.Machine

/-! ## Latches that reach a pin -/

/-- A pin event, emitted only when the pin is driven and its level changes (00_scope.md R8). -/
def pinEvent (driven old new : Bool) (e : Event) : List Event := if driven && old != new then [e] else []

/-- Write SCLK (10_state.md R16). -/
def setSclk (b : Bool) (s : State) : State :=
  { s with sclk := b, trace := s.trace ++ pinEvent s.inited s.sclk b (.sclk b) }

/-- Write CS_N (10_state.md R17). The device sees a falling edge of the driven pin as the start of a frame (R31). -/
def setCsN (b : Bool) (s : State) : State :=
  { s with
    csN := b
    device := if s.inited && s.csN && !b then s.device.select else s.device
    trace := s.trace ++ pinEvent s.inited s.csN b (.cs b) }

/-- Write SR (10_state.md R11). MOSI shows SR[7] at all times (R19). -/
def setSr (v : Byte) (s : State) : State :=
  { s with sr := v, srLoaded := true, trace := s.trace ++ pinEvent s.inited s.mosi v.msb (.mosi v.msb) }

/-- Set INITED: the output pins become driven (10_state.md R18). -/
def setInited (s : State) : State :=
  { s with inited := true, trace := s.trace ++ pinEvent true s.inited true (.oe true) }

/-! ## Faults and reset -/

/-- Fault entry, `raise F` (60_exceptions.md R156): the one operation that takes a fault. -/
def raise (f : BusFault) (s : State) : State :=
  let s := setCsN true (setSclk false s)
  { s with
    err := f.code
    rsp := some (.fault f.code)
    trace := s.trace ++ [.respond (.fault f.code)]
    seq := .fault }

/-- One engine step with `rst` asserted (70_reset_and_hazards.md R170, R171): every element of the block takes its reset
value, the command in flight is dropped with no response, the pins stop being driven. What is outside the block stays
(R172): the device, the clock source, the words the host holds, what was already streamed. It is the only way out of
FAULT and of a hang; there is no return from a fault (60_exceptions.md R157). DESIGN CHOICE, log entry 13: how a reset inside
an open frame shows on the bus. The trace takes `OE(0)` and no `CS(1)`, and the device is told nothing. -/
def applyReset (s : State) : State :=
  { State.reset with
    polls := freshPolls s.params
    params := s.params
    rst := s.rst - 1
    cmds := s.cmds
    clock := s.clock
    device := s.device
    draws := s.draws
    trace := s.trace ++ pinEvent true s.inited false (.oe false) }

/-! ## SHIFT -/

/-- The data-in line at a rising edge goes into LATCH, and the device takes the data-out level (40_shift_engine.md R82,
R84). -/
def sampleMiso (s : State) : State :=
  let m := s.pinMiso
  { s with latch := m, device := s.device.rise s.mosi, trace := s.trace ++ [.sample s.mosi m] }

/-- The falling edge's part of PULSE: SR shifts left, the sampled bit enters at bit 0, BITCNT counts, the eighth pulse sets
XDONE (40_shift_engine.md R83). -/
def shiftIn (s : State) : State :=
  let s := setSr (s.sr.shiftConcat s.latch) s
  { s with bitcnt := s.bitcnt + 1#4, xdone := s.xdone || transferComplete (s.bitcnt + 1#4) }

/-- PULSE: one full clock cycle (40_shift_engine.md R83). -/
def pulse (s : State) : State := shiftIn (setSclk false (sampleMiso (setSclk true s)))

/-- XFER load of the frame byte `b` (40_shift_engine.md R87). -/
def xferLoad (b : Byte) (s : State) : State :=
  { setSr b s with
    xdone := false
    bitcnt := 0#4
    polls := freshPolls s.params
    seq := .shift }

/-- The clock source's part of XFER poll: it answers once; true makes the PULSE happen whole, false is a stall
(40_shift_engine.md R86). -/
def pollClock (s : State) : State :=
  let t := { s with clock := s.clock.advance, draws := s.draws + 1 }
  if s.clock.answer s.draws then pulse t else t

/-- Count one poll (10_state.md R15). -/
def countPoll (s : State) : State := { s with polls := s.polls.map (PollCounter.plus 1) }

/-- XFER poll (40_shift_engine.md R88), with the Timeout fault of 60_exceptions.md R152. -/
def xferPoll (s : State) : State :=
  match s.params.timeout with
  | none => pollClock s
  | some t => if s.pollCount = t then raise .timeout s else pollClock (countPoll s)

/-- Deliver a received byte (42_register_protocol.md R133). -/
def deliver (r : Route) (b : Byte) (s : State) : State :=
  match r with
  | .drop => s
  | .rdataZext => { s with rdata := zextByte b }
  | .rdataHigh => { s with rdata := joinBytes (lowByte s.rdata) b }
  | .stream => { s with sb := some b, trace := s.trace ++ [.stream b] }

/-- XFER collect (40_shift_engine.md R89). -/
def xferCollect (c : Command) (s : State) : State :=
  { deliver (c.route s.idx.toNat) s.sr s with
    idx := s.idx + 1#17
    seq := if (s.idx + 1#17).toNat = c.frame.length then .desel else .load }

/-! ## FRAME -/

/-- SELECT (41_cs_framing.md R100). -/
def select (s : State) : State := { setCsN false s with idx := 0#17, seq := .load }

/-- DESELECT (41_cs_framing.md R101). -/
def deselect (s : State) : State := { setCsN true s with seq := .resp }

/-! ## PROTO -/

/-- Accept INIT (42_register_protocol.md R134, 43_init.md R141): configure the pins and latch the soft-reset write. IDX is not
written, by this or any acceptance (10_state.md R10, R22; log entry 10). -/
def acceptInit (s : State) : State :=
  { setSclk false (setCsN true (setInited s)) with op := 0x1#4, addr := 0x1F#8, wdata := 0x0052#16, seq := .sel }

/-- Accept any other command (42_register_protocol.md R134): NotInit before INIT, else latch its fields. -/
def acceptCommand (op : BitVec 4) (addr : Byte) (data : Half) (s : State) : State :=
  if s.inited then { s with op := op, addr := addr, wdata := data, seq := .sel } else raise .notInit s

/-- The response a command ends with (42_register_protocol.md R136). -/
def response (c : Command) (s : State) : Response :=
  match c.reply with
  | .done => .done
  | .data => .data s.rdata

/-- Respond (42_register_protocol.md R136). -/
def respond (c : Command) (s : State) : State :=
  { s with rsp := some (response c s), trace := s.trace ++ [.respond (response c s)], seq := .idle }

/-- One engine step of a command, as the transition table says (42_register_protocol.md R137): the command is presented
when SEQ is IDLE and in flight in the phases after it. In FAULT it is never accepted (60_exceptions.md R157). -/
def commandStep (accept : State → State) (c : Command) (s : State) : Host.Outcome State Fault Refusal :=
  match s.seq with
  | .idle => .next (accept s)
  | .sel => .next (select s)
  | .load =>
    match c.frame[s.idx.toNat]? with
    | some b => .next (xferLoad b s)
    | none => .fault .noFrameByte
  | .shift => if s.xdone then .next (xferCollect c s) else .next (xferPoll s)
  | .desel => .next (deselect s)
  | .resp => .next (respond c s)
  | .fault => .next s

end Sys2Proof.Machine
end

