-- ==== Sys2Proof/Machine/Init.lean ====
section
/-! DEFINITION. The meaning of INIT (43_init.md). -/

namespace Sys2Proof.Machine

/-- INIT on the wire: the soft-reset exchange `[0x0A, 0x1F, 0x52]`, the same as WR8 0x1F, 0x52 (43_init.md R141). -/
def initCommand : Command := { frame := frameW1 0x1F#8 0x52#8, route := routeNone, reply := .done }

/-- INIT: one engine step of it (43_init.md R141). Both operands are ignored (30_encoding.md R62). -/
def execInit (_addr : Byte) (_data : Half) (s : State) : Host.Outcome State Fault Refusal :=
  commandStep acceptInit initCommand s

end Sys2Proof.Machine
end

