-- ==== Sys2Proof/Machine/RegisterRead.lean ====
section
/-! DEFINITION. The meanings of the register reads RD8 and RD16 (42_register_protocol.md R118, R122). -/

namespace Sys2Proof.Machine

/-- RD8 on the wire: `[0x0B, addr, DUMMY]`; the byte at position 2 is the result (R118). -/
def rd8Command (addr dummy : Byte) : Command :=
  { frame := frameR1 addr dummy, route := routeRd8, reply := .data }

/-- RD8: one engine step of it (R118). `data` is latched and otherwise ignored (30_encoding.md R62). -/
def execRd8 (addr : Byte) (data : Half) (s : State) : Host.Outcome State Fault Refusal :=
  commandStep (acceptCommand 0x3#4 addr data) (rd8Command addr s.params.dummy) s

/-- RD16 on the wire: `[0x0B, addr, DUMMY, DUMMY]`; the bytes at positions 2 and 3 are the result, low byte first (R122). -/
def rd16Command (addr dummy : Byte) : Command :=
  { frame := frameR2 addr dummy, route := routeRd16, reply := .data }

/-- RD16: one engine step of it (R122). `data` is latched and otherwise ignored (30_encoding.md R62). -/
def execRd16 (addr : Byte) (data : Half) (s : State) : Host.Outcome State Fault Refusal :=
  commandStep (acceptCommand 0x4#4 addr data) (rd16Command addr s.params.dummy) s

end Sys2Proof.Machine
end

