-- ==== Sys2Proof/Machine/RegisterWrite.lean ====
section
/-! DEFINITION. The meanings of the register writes WR8 and WR16 (42_register_protocol.md R110, R114). -/

namespace Sys2Proof.Machine

/-- WR8 on the wire: `[0x0A, addr, data[7:0]]`; every received byte is dropped (R110). `data[15:8]` is ignored (R131 c). -/
def wr8Command (addr : Byte) (data : Half) : Command :=
  { frame := frameW1 addr (lowByte data), route := routeNone, reply := .done }

/-- WR8: one engine step of it (R110). -/
def execWr8 (addr : Byte) (data : Half) (s : State) : Host.Outcome State Fault Refusal :=
  commandStep (acceptCommand 0x1#4 addr data) (wr8Command addr data) s

/-- WR16 on the wire: `[0x0A, addr, data[7:0], data[15:8]]`; every received byte is dropped (R114). -/
def wr16Command (addr : Byte) (data : Half) : Command :=
  { frame := frameW2 addr data, route := routeNone, reply := .done }

/-- WR16: one engine step of it (R114). -/
def execWr16 (addr : Byte) (data : Half) (s : State) : Host.Outcome State Fault Refusal :=
  commandStep (acceptCommand 0x2#4 addr data) (wr16Command addr data) s

end Sys2Proof.Machine
end

