-- ==== Sys2Proof/Machine/StreamRead.lean ====
section
/-! DEFINITION. The meanings of the streaming reads RDFIFO and RDBURST (42_register_protocol.md R124, R126). -/

namespace Sys2Proof.Machine

/-- RDFIFO on the wire: `[0x0D]` and then `data` dummy bytes, each received byte streamed (R124). -/
def rdfifoCommand (data : Half) (dummy : Byte) : Command :=
  { frame := frameFN dummy (byteCount data), route := routeFifo, reply := .done }

/-- RDFIFO: one engine step of it (R124). `addr` is latched and otherwise ignored (30_encoding.md R62). -/
def execRdfifo (addr : Byte) (data : Half) (s : State) : Host.Outcome State Fault Refusal :=
  commandStep (acceptCommand 0x5#4 addr data) (rdfifoCommand data s.params.dummy) s

/-- RDBURST on the wire: `[0x0B, addr]` and then `data` dummy bytes, each byte received after the address streamed (R126). -/
def rdburstCommand (addr : Byte) (data : Half) (dummy : Byte) : Command :=
  { frame := frameRN addr dummy (byteCount data), route := routeBurst, reply := .done }

/-- RDBURST: one engine step of it (R126). -/
def execRdburst (addr : Byte) (data : Half) (s : State) : Host.Outcome State Fault Refusal :=
  commandStep (acceptCommand 0x6#4 addr data) (rdburstCommand addr data s.params.dummy) s

end Sys2Proof.Machine
end

