-- ==== Sys2Proof/Syntax.lean ====
section
/-! DEFINITION. The seven host commands of 30_encoding.md R60, one constructor per row of the opcode table, each with
the two operand fields of the one command format (R61). -/

namespace Sys2Proof

/-- A host command. Every command carries `addr` and `data`, also where it ignores one (R62): the block latches an ignored
field at acceptance (V43, V50), and a decoder that dropped it could not. INIT alone latches neither (V61). -/
inductive Instr where
  /-- `INIT`: both fields ignored (43_init.md R141). -/
  | init (addr : Byte) (data : Half)
  /-- `WR8 addr, data[7:0]`: `data[15:8]` ignored (42_register_protocol.md R110). -/
  | wr8 (addr : Byte) (data : Half)
  /-- `WR16 addr, data` (42_register_protocol.md R114). -/
  | wr16 (addr : Byte) (data : Half)
  /-- `RD8 addr`: `data` ignored (42_register_protocol.md R118). -/
  | rd8 (addr : Byte) (data : Half)
  /-- `RD16 addr`: `data` ignored (42_register_protocol.md R122). -/
  | rd16 (addr : Byte) (data : Half)
  /-- `RDFIFO data`: `data` is the count, `addr` ignored (42_register_protocol.md R124). -/
  | rdfifo (addr : Byte) (data : Half)
  /-- `RDBURST addr, data`: `data` is the count (42_register_protocol.md R126). -/
  | rdburst (addr : Byte) (data : Half)
  deriving DecidableEq, Repr

/-- Why a command word is no command. Either reason makes the block raise IllegalOp. -/
inductive DecodeError where
  /-- Bits 27:24 are not zero (30_encoding.md R63). -/
  | reservedField
  /-- The opcode is in `0x7` to `0xF` (30_encoding.md R64). -/
  | reservedOpcode
  deriving DecidableEq, Repr

end Sys2Proof
end

