-- ==== Sys2Proof/Machine/Dispatch.lean ====
section
/-! DEFINITION. One engine step of a command: one arm per constructor of Instr (42_register_protocol.md R137). -/

namespace Sys2Proof.Machine

def exec (i : Instr) (s : State) : Host.Outcome State Fault Refusal :=
  match i with
  | .init addr data => Sys2Proof.Machine.execInit addr data s
  | .wr8 addr data => Sys2Proof.Machine.execWr8 addr data s
  | .wr16 addr data => Sys2Proof.Machine.execWr16 addr data s
  | .rd8 addr data => Sys2Proof.Machine.execRd8 addr data s
  | .rd16 addr data => Sys2Proof.Machine.execRd16 addr data s
  | .rdfifo addr data => Sys2Proof.Machine.execRdfifo addr data s
  | .rdburst addr data => Sys2Proof.Machine.execRdburst addr data s

end Sys2Proof.Machine
end

