-- ==== Sys2Proof/WellFormed.lean ====
section
/-! DEFINITION. Well-formedness. The types of `Instr` fix every width, and the block accepts every address, every value,
every count and every value of an ignored field (20_memory.md R41, 30_encoding.md R62, R69), so the checks left are two: the
form the assembler writes, and the configuration. -/

namespace Sys2Proof

/-- The form the assembler writes (30_encoding.md R72): zero in every ignored field, and a WR8 value in 0..255. The block
accepts the other forms too (R62). -/
def Instr.assembled : Instr → Bool
  | .init addr data => addr == 0#8 && data == 0#16
  | .wr8 _ data => data.toNat < 256
  | .wr16 _ _ => true
  | .rd8 _ data => data == 0#16
  | .rd16 _ data => data == 0#16
  | .rdfifo addr _ => addr == 0#8
  | .rdburst _ _ => true

/-- A configuration the model runs: `TIMEOUT` is `none` or at least 8 (40_shift_engine.md R88, U10). -/
def Params.wellFormed (p : Params) : Bool :=
  match p.timeout with
  | none => true
  | some t => 8 ≤ t

end Sys2Proof
end

