-- ==== Sys2Proof/Decode.lean ====
section
/-! DEFINITION. The decoder and the encoder of command words, both from the one format of 30_encoding.md R61 and the
opcode numbers of R60. A command word is a value on the command port, not bytes in a memory, so there is no byte order. -/

namespace Sys2Proof

/-- Bits 31:28 of a command word (R61). -/
def wordOp (w : Word) : BitVec 4 := w.extractLsb' 28 4

/-- Bits 27:24 of a command word, which must be zero (R61, R63). -/
def wordRsv (w : Word) : BitVec 4 := w.extractLsb' 24 4

/-- Bits 23:16 of a command word (R61). -/
def wordAddr (w : Word) : Byte := w.extractLsb' 16 8

/-- Bits 15:0 of a command word (R61). -/
def wordData (w : Word) : Half := w.extractLsb' 0 16

/-- The command an opcode and two operand fields stand for; none for the reserved opcodes `0x7` to `0xF` (R60, R64). It
reads the command port's word and, later, the latches OP, ADDR, WDATA. -/
def commandOfFields (op : BitVec 4) (addr : Byte) (data : Half) : Option Instr :=
  match op.toNat with
  | 0 => some (.init addr data)
  | 1 => some (.wr8 addr data)
  | 2 => some (.wr16 addr data)
  | 3 => some (.rd8 addr data)
  | 4 => some (.rd16 addr data)
  | 5 => some (.rdfifo addr data)
  | 6 => some (.rdburst addr data)
  | _ => none

/-- The decoder, total on every 32-bit word (R64): one of the seven commands, or the reason there is none. A reserved field
that is not zero makes the word illegal whatever its opcode (R63). -/
def decodeWord (w : Word) : Except DecodeError Instr :=
  if wordRsv w ≠ 0#4 then .error .reservedField
  else
    match commandOfFields (wordOp w) (wordAddr w) (wordData w) with
    | some i => .ok i
    | none => .error .reservedOpcode

/-- The opcode number of a command (R60). -/
def Instr.opcode : Instr → BitVec 4
  | .init _ _ => 0x0#4
  | .wr8 _ _ => 0x1#4
  | .wr16 _ _ => 0x2#4
  | .rd8 _ _ => 0x3#4
  | .rd16 _ _ => 0x4#4
  | .rdfifo _ _ => 0x5#4
  | .rdburst _ _ => 0x6#4

/-- The `addr` field of a command (R61). -/
def Instr.addr : Instr → Byte
  | .init a _ | .wr8 a _ | .wr16 a _ | .rd8 a _ | .rd16 a _ | .rdfifo a _ | .rdburst a _ => a

/-- The `data` field of a command (R61). -/
def Instr.data : Instr → Half
  | .init _ d | .wr8 _ d | .wr16 _ d | .rd8 _ d | .rd16 _ d | .rdfifo _ d | .rdburst _ d => d

/-- The command word of a command: opcode, zero, address, data (R61). -/
def encode (i : Instr) : Word := i.opcode ++ 0#4 ++ i.addr ++ i.data

/-- The decoder on a row of the opcode table: the low `nbits` bits of the word are given, the others are 0. Every row is
one 32-bit word. -/
def decodeTableWord (nbits w : Nat) : Option Instr :=
  if nbits ≤ 32 ∧ w < 2 ^ nbits then
    match decodeWord (BitVec.ofNat 32 w) with
    | .ok i => some i
    | .error _ => none
  else none

end Sys2Proof
end

