-- ==== Sys2Proof/Machine/Fetch.lean ====
section
/-! DEFINITION. Which command an engine step runs: the word on the command port when SEQ is IDLE (10_state.md R26), the
latched command in the phases after it (R21). -/

namespace Sys2Proof.Machine

/-- The HOST presents one more word, after those it already holds (30_encoding.md R72). An action of the environment. -/
def State.present (s : State) (w : Word) : State := { s with cmds := s.cmds ++ [w] }

/-- The output ports are valid for one engine step (10_state.md R27, R28). -/
def quiet (s : State) : State := { s with rsp := none, sb := none }

/-- The command in flight, read from the latches (10_state.md R21). An INIT in flight is the WR8 it latched (43_init.md
R141). -/
def State.inFlight (s : State) : Option Instr := commandOfFields s.op s.addr s.wdata

/-- What an engine step has to do. -/
inductive Fetched where
  /-- Run this command from this state. -/
  | run (i : Instr) (s : State)
  /-- No command to run: this is the step's outcome. -/
  | settled (o : Host.Outcome State Fault Refusal)

/-- Reset comes first (70_reset_and_hazards.md R171). In IDLE a presented word is accepted, and an illegal one raises
IllegalOp before anything else is checked (60_exceptions.md R155); with none presented the block waits. In FAULT nothing
is enabled. In the other phases the command in flight goes on. -/
def fetch (s : State) : Fetched :=
  if !s.params.wellFormed then .settled (.refused .timeoutBelowEight)
  else if 0 < s.rst then .settled (.next (applyReset s))
  else
    match s.seq with
    | .fault => .settled (.next (quiet s))
    | .idle =>
      match s.cmds with
      | [] => .settled (.next (quiet s))
      | w :: ws =>
        match decodeWord w with
        | .ok i => .run i { quiet s with cmds := ws }
        | .error _ => .settled (.next (raise .illegalOp { quiet s with cmds := ws }))
    | .sel | .load | .shift | .desel | .resp =>
      match s.inFlight with
      | some i => .run i (quiet s)
      | none => .settled (.fault .noCommandInFlight)

/-- The state with `w` as the word the very next step takes: SEQ IDLE, reset released, `w` first on the port. -/
def presentNext (s : State) (w : Word) : State :=
  { s with seq := .idle, rst := 0, cmds := w :: s.cmds }

end Sys2Proof.Machine
end

