-- ==== Sys2Proof/Machine/Step.lean ====
section
/-! DEFINITION. One engine step of the block (42_register_protocol.md R137), with three outcomes: next, fault, refused. -/

namespace Sys2Proof.Machine

/-- One engine step: fetch says which command runs, exec runs it. -/
def step (s : State) : Host.Outcome State Fault Refusal :=
  match fetch s with
  | .run i t => exec i t
  | .settled o => o

/-- `s` with the command word `w` presented so that the next step accepts it: a command word is one row's `nbits` = 32 bits
on the command port, and SEQ is IDLE with reset released (10_state.md R26). -/
def State.withFetchWord (s : State) (_nbits w : Nat) : State := presentNext s (BitVec.ofNat 32 w)

end Sys2Proof.Machine
end

