-- ==== Sys2Proof/Safety.lean ====
section
/-! DEFINITION. The terms claims are stated in: a command's wire behaviour as one function, runs of several engine steps, the
state invariant of 10_state.md R33 and 41_cs_framing.md R104, and the views of a trace (00_scope.md R8). -/

namespace Sys2Proof.Machine

/-- The wire behaviour of each command: what its meaning hands to the sequencer. -/
def commandOf (i : Instr) (dummy : Byte) : Command :=
  match i with
  | .init _ _ => initCommand
  | .wr8 addr data => wr8Command addr data
  | .wr16 addr data => wr16Command addr data
  | .rd8 addr _ => rd8Command addr dummy
  | .rd16 addr _ => rd16Command addr dummy
  | .rdfifo _ data => rdfifoCommand data dummy
  | .rdburst addr data => rdburstCommand addr data dummy

/-- What acceptance of each command does. -/
def acceptOf (i : Instr) (s : State) : State :=
  match i with
  | .init _ _ => acceptInit s
  | .wr8 _ _ | .wr16 _ _ | .rd8 _ _ | .rd16 _ _ | .rdfifo _ _ | .rdburst _ _ =>
    acceptCommand i.opcode i.addr i.data s

/-- `frame(OP, ADDR, WDATA)` of a command (30_encoding.md R66). -/
def frameOf (i : Instr) (dummy : Byte) : List Byte := (commandOf i dummy).frame

/-- `n` engine steps, stopping at the first fault or refusal. -/
def runFor : Nat → State → Host.Outcome State Fault Refusal
  | 0, s => .next s
  | n + 1, s =>
    match step s with
    | .next t => runFor n t
    | .fault r => .fault r
    | .refused r => .refused r

/-- The length of the frame the latches hold; 0 where they hold no command. -/
def State.frameLength (s : State) : Nat :=
  match s.inFlight with
  | some i => (frameOf i s.params.dummy).length
  | none => 0

/-- A command is in flight and its frame is open: from SELECT to DESELECT (41_cs_framing.md R104). -/
def State.inFrame (s : State) : Bool := s.seq == .load || s.seq == .shift || s.seq == .desel

/-- The invariant of the block: 10_state.md R33 with the framing invariant of 41_cs_framing.md R104, and what the
micro-operations' preconditions add (40_shift_engine.md R83, R87). R33 (f) is stated for the phases it is true in (log
entry 10). -/
structure State.Inv (s : State) : Prop where
  /-- Chip-select is asserted exactly while a frame is open (R33 a, b; R104). -/
  framed : s.csN = !s.inFrame
  /-- A command in flight has found the pins configured (R33 a). -/
  configured : s.stBusy = true → s.inited = true
  /-- The clock rests between pulses (R33 c). -/
  clockLow : s.sclk = false
  /-- R33 (d), first half. -/
  bitsBound : s.bitcnt.toNat ≤ 8
  /-- R33 (d), second half. -/
  doneFull : s.xdone = true → s.bitcnt = 8#4
  /-- A transfer that is not done has pulses left (R83). -/
  notDone : s.seq = .shift → s.xdone = false → s.bitcnt.toNat < 8
  /-- R33 (e). -/
  faulted : s.err ≠ 0#2 ↔ s.seq = .fault
  /-- The latches of a command in flight hold a command (42_register_protocol.md R134). -/
  latched : s.stBusy = true → s.inFlight.isSome = true
  /-- IDX names a frame byte while one is moved (R87). -/
  indexed : s.seq = .load ∨ s.seq = .shift → s.idx.toNat < s.frameLength
  /-- R33 (f), in every phase but SEL, where IDX may still be the one an earlier, longer frame left (V20). -/
  indexBound : s.seq ≠ .sel → s.idx.toNat ≤ s.frameLength
  /-- IDX fits the longest frame in every phase, SEL among them (10_state.md R22). -/
  indexRange : s.idx.toNat ≤ 65537
  /-- POLLS is there exactly when TIMEOUT is a number, and of the width that holds it (R15). -/
  pollsShape : s.polls.map PollCounter.width = s.params.timeout.map pollWidth
  /-- POLLS never passes TIMEOUT (R15, R88). -/
  pollsBound : ∀ t, s.params.timeout = some t → s.pollCount ≤ t

/-- The block can accept a command at the next step and no fault is about to come from outside: IDLE, reset released, a
configuration the model runs, and the pin latches at rest. Every state with the invariant in IDLE has the last two. -/
structure State.Ready (s : State) : Prop where
  idle : s.seq = .idle
  released : s.rst = 0
  configured : s.params.wellFormed = true
  csHigh : s.csN = true
  clockLow : s.sclk = false

/-- The clock source never stalls: "no stalls" (95_test_vectors.md, conventions), the strongest case of assumption A-CLK
(40_shift_engine.md R86). -/
def State.neverStalls (s : State) : Prop := s.clock = .script [] true

/-- The attached fixture's registers are in canonical form. -/
def Device.wf (d : Device) : Prop :=
  match d with
  | .oracle => True
  | .script _ => True
  | .fixture f => Memory.wf f.regs

/-- A byte event: the byte-level abstraction of the pin events (00_scope.md R8). -/
inductive ByteEvent where
  | oe
  | sel
  | xf (out inp : Byte)
  | desel
  deriving DecidableEq, Repr

/-- Read byte events out of a trace, `n` bits of a byte having gone by already: eight samples make one `XF(out, in)`, first
bit highest (40_shift_engine.md R82, R90). -/
def byteEventsFrom (out inp : Byte) (n : Nat) : List Event → List ByteEvent
  | [] => []
  | .sample mo mi :: es =>
    if n + 1 = 8 then .xf (out.shiftConcat mo) (inp.shiftConcat mi) :: byteEventsFrom 0x00#8 0x00#8 0 es
    else byteEventsFrom (out.shiftConcat mo) (inp.shiftConcat mi) (n + 1) es
  | .cs false :: es => .sel :: byteEventsFrom 0x00#8 0x00#8 0 es
  | .cs true :: es => .desel :: byteEventsFrom 0x00#8 0x00#8 0 es
  | .oe true :: es => .oe :: byteEventsFrom out inp n es
  | .oe false :: es => byteEventsFrom out inp n es
  | .sclk _ :: es => byteEventsFrom out inp n es
  | .mosi _ :: es => byteEventsFrom out inp n es
  | .stream _ :: es => byteEventsFrom out inp n es
  | .respond _ :: es => byteEventsFrom out inp n es

/-- The byte events of a trace. -/
def byteEvents (es : List Event) : List ByteEvent := byteEventsFrom 0x00#8 0x00#8 0 es

/-- The bytes offered on the stream port, in order. -/
def streamed (es : List Event) : List Byte :=
  es.filterMap fun e => match e with
    | .stream b => some b
    | _ => none

/-- The responses raised, in order. -/
def responses (es : List Event) : List Response :=
  es.filterMap fun e => match e with
    | .respond r => some r
    | _ => none

/-- An event on a bus pin (00_scope.md R8). -/
def Event.isPin : Event → Bool
  | .oe _ | .cs _ | .sclk _ | .mosi _ => true
  | .sample _ _ | .stream _ | .respond _ => false

/-- The pin events of a trace, in order. -/
def pinEvents (es : List Event) : List Event := es.filter Event.isPin

/-- The data-out levels a device takes at the rising edges of a trace, in order. -/
def mosiAtEdges (es : List Event) : List Bool :=
  es.filterMap fun e => match e with
    | .sample mo _ => some mo
    | _ => none

/-- How many clock cycles a trace holds: its rising edges (42_register_protocol.md R128). -/
def clockCycles (es : List Event) : Nat := es.countP (fun e => e == .sclk true)

/-- The bits of a byte, first on the wire first (20_memory.md R42). -/
def bitsOf (b : Byte) : List Bool :=
  [b.getMsbD 0, b.getMsbD 1, b.getMsbD 2, b.getMsbD 3, b.getMsbD 4, b.getMsbD 5, b.getMsbD 6, b.getMsbD 7]

/-- The byte events of one framed exchange that sends `outs` and receives `ins` (41_cs_framing.md R102). -/
def frameTrace (outs ins : List Byte) : List ByteEvent := [.sel] ++ List.zipWith .xf outs ins ++ [.desel]

/-- The received bytes a command streams, in order: RDFIFO those from position 1 on (R124), RDBURST those from position 2 on
(R126), the others none. -/
def streamOf (i : Instr) (ins : List Byte) : List Byte :=
  match i with
  | .rdfifo _ _ => ins.drop 1
  | .rdburst _ _ => ins.drop 2
  | .init _ _ | .wr8 _ _ | .wr16 _ _ | .rd8 _ _ | .rd16 _ _ => []

/-- What a command's response says, given the bytes received (R118, R122, R136): RD8 zero-extends the byte at position 2,
RD16 joins those at 2 and 3, the low one first. -/
def resultOf (i : Instr) (ins : List Byte) : Response :=
  match i with
  | .rd8 _ _ => .data (zextByte (ins.getD 2 0x00#8))
  | .rd16 _ _ => .data (joinBytes (ins.getD 2 0x00#8) (ins.getD 3 0x00#8))
  | .init _ _ | .wr8 _ _ | .wr16 _ _ | .rdfifo _ _ | .rdburst _ _ => .done

end Sys2Proof.Machine
end

