-- ==== Sys2Proof/Certificates/Slice0/Obligations.lean ====
section
/-! DEFINITION. The statements for the provers. Each formalises rules of spec/ named in its docstring. The fields `cmds`,
`rst`, `params`, `clock`, `draws`, `device` and `trace` are the model's record of what stands outside the block and of what
an observer saw (log entries 3 to 8). -/

open Sys2Proof Sys2Proof.Machine

/-! ## Encodings -/

/-- Command words written out in 95_test_vectors.md (V30, V33, V36, V38, V42, V44, V60, V63, V71) decode to what they stand
for. -/
def Obligations.SpecWordsDecode : Prop :=
  decodeWord 0x00000000#32 = .ok (.init 0x00#8 0x0000#16) ∧
  decodeWord 0x101F0052#32 = .ok (.wr8 0x1F#8 0x0052#16) ∧
  decodeWord 0x20201234#32 = .ok (.wr16 0x20#8 0x1234#16) ∧
  decodeWord 0x30080000#32 = .ok (.rd8 0x08#8 0x0000#16) ∧
  decodeWord 0x400E0000#32 = .ok (.rd16 0x0E#8 0x0000#16) ∧
  decodeWord 0x500000FF#32 = .ok (.rdfifo 0x00#8 0x00FF#16) ∧
  decodeWord 0x600E0006#32 = .ok (.rdburst 0x0E#8 0x0006#16) ∧
  decodeWord 0x01000000#32 = .error .reservedField ∧
  decodeWord 0x70000000#32 = .error .reservedOpcode

/-- Decoder and encoder agree on every command and every word: a word decodes to a command exactly when it is that
command's encoding (30_encoding.md sections 1 and 5). -/
def Obligations.DecodesExactlyEncodings : Prop :=
  ∀ (w : Word) (i : Instr), decodeWord w = .ok i ↔ w = encode i

/-- The only words that are no command are those with a reserved field that is not zero, and those with an opcode above 6
(30_encoding.md R63, R64). -/
def Obligations.OnlyReservedWordsAreIllegal : Prop :=
  ∀ w : Word,
    (decodeWord w = .error .reservedField ↔ w.extractLsb' 24 4 ≠ 0#4) ∧
    (decodeWord w = .error .reservedOpcode ↔ w.extractLsb' 24 4 = 0#4 ∧ 7 ≤ (w.extractLsb' 28 4).toNat)

/-! ## Frames and operands -/

/-- The frame encoder of 30_encoding.md R66, row by row; every frame has at least one byte. -/
def Obligations.WireFrames : Prop :=
  ∀ (a : Byte) (v : Half) (d : Byte),
    frameOf (.wr8 a v) d = [0x0A#8, a, v.extractLsb' 0 8] ∧
    frameOf (.wr16 a v) d = [0x0A#8, a, v.extractLsb' 0 8, v.extractLsb' 8 8] ∧
    frameOf (.rd8 a v) d = [0x0B#8, a, d] ∧
    frameOf (.rd16 a v) d = [0x0B#8, a, d, d] ∧
    frameOf (.rdfifo a v) d = [0x0D#8] ++ List.replicate v.toNat d ∧
    frameOf (.rdburst a v) d = [0x0B#8, a] ++ List.replicate v.toNat d ∧
    frameOf (.init a v) d = frameOf (.wr8 0x1F#8 0x0052#16) d ∧
    frameOf (.init a v) d = [0x0A#8, 0x1F#8, 0x52#8] ∧
    ∀ i : Instr, frameOf i d ≠ []

/-- `keep(OP, k)` of 30_encoding.md R70, and a byte that is not kept changes nothing. -/
def Obligations.KeptPositions : Prop :=
  (∀ (i : Instr) (d : Byte) (k : Nat),
    ((commandOf i d).route k).kept = true ↔
      match i with
      | .rd8 _ _ => k = 2
      | .rd16 _ _ => k = 2 ∨ k = 3
      | .rdburst _ _ => 2 ≤ k
      | .rdfifo _ _ => 1 ≤ k
      | .init _ _ | .wr8 _ _ | .wr16 _ _ => False) ∧
  ∀ (r : Route) (b : Byte) (s : State), r.kept = false → deliver r b s = s

/-- The bytes WR16 sends at positions 2 and 3 are the low and the high byte of the value, and what RD16 makes of the bytes
received at those positions is `low_byte | (high_byte << 8)` (42_register_protocol.md R130, R131). -/
def Obligations.SplitAndJoinAgree : Prop :=
  ∀ (a : Byte) (v : Half) (d b0 b1 : Byte) (ins : List Byte),
    (frameOf (.wr16 a v) d)[2]? = some (lowByte v) ∧
    (frameOf (.wr16 a v) d)[3]? = some (highByte v) ∧
    (ins[2]? = some b0 → ins[3]? = some b1 →
      resultOf (.rd16 a v) ins = .data (b0.setWidth 16 ||| (b1.setWidth 16 <<< 8))) ∧
    joinBytes (lowByte v) (highByte v) = v ∧
    lowByte (joinBytes b0 b1) = b0 ∧ highByte (joinBytes b0 b1) = b1

/-! ## One engine step of every command, phase by phase -/

/-- PULSE (40_shift_engine.md R83): SR shifts left and takes the sampled bit at bit 0, LATCH holds that bit, SCLK ends low,
BITCNT counts, the pulse that takes it to 8 sets XDONE, and nothing else in the block changes; the pins show one whole
clock cycle and MOSI is redriven after it. -/
def Obligations.PulseMovesOneBit : Prop :=
  ∀ s : State,
    pulse s = { s with
      sr := s.sr.extractLsb' 0 7 ++ BitVec.ofBool s.pinMiso, srLoaded := true
      latch := s.pinMiso
      sclk := false
      bitcnt := s.bitcnt + 1#4
      xdone := if s.bitcnt + 1#4 = 8#4 then true else s.xdone
      device := s.device.rise s.mosi
      trace := (pulse s).trace } ∧
    (s.inited = true → s.srLoaded = true → s.sclk = false →
      (pulse s).trace = s.trace ++
        [.sclk true, .sample (s.sr.getLsbD 7) s.pinMiso, .sclk false] ++
        (if s.sr.getLsbD 7 = s.sr.getLsbD 6 then [] else [.mosi (s.sr.getLsbD 6)]))

/-- SELECT (41_cs_framing.md R100), one engine step of every command in SEL: chip-select goes low with one pin event, IDX is
0, the next phase is LOAD, nothing else in the block changes. -/
def Obligations.EveryCommandSelects : Prop :=
  ∀ (i : Instr) (s : State), s.seq = .sel → s.inited = true → s.csN = true →
    exec i s = .next { s with
      csN := false, idx := 0#17, seq := .load, device := s.device.select, trace := s.trace ++ [.cs false] }

/-- XFER load (40_shift_engine.md R87), one engine step of every command in LOAD: SR takes frame byte IDX, XDONE, BITCNT and
(with a TIMEOUT, else it is absent) POLLS are cleared, MOSI is redriven. -/
def Obligations.EveryCommandLoads : Prop :=
  ∀ (i : Instr) (b : Byte) (s : State), s.seq = .load → (frameOf i s.params.dummy)[s.idx.toNat]? = some b →
    exec i s = .next { s with
      sr := b, srLoaded := true, xdone := false, bitcnt := 0#4, seq := .shift
      polls := freshPolls s.params
      trace := s.trace ++ if s.inited = true ∧ s.mosi ≠ b.msb then [.mosi b.msb] else [] }

/-- XFER poll (40_shift_engine.md R88) with no fault due, one engine step of every command: a true answer of the clock source
pulses, a false one is a stall that changes nothing but the count of polls. -/
def Obligations.EveryCommandPolls : Prop :=
  ∀ (i : Instr) (s : State), s.seq = .shift → s.xdone = false → s.params.timeout ≠ some s.pollCount →
    let u := { s with
      polls := if s.params.timeout = none then s.polls else s.polls.map (PollCounter.plus 1)
      clock := s.clock.advance, draws := s.draws + 1 }
    exec i s = .next (if s.clock.answer s.draws = true then pulse u else u)

/-- XFER collect (40_shift_engine.md R89), one engine step of every command: the byte in SR goes where the command keeps it,
IDX advances, and the frame goes on or ends. -/
def Obligations.EveryCommandCollects : Prop :=
  ∀ (i : Instr) (s : State), s.seq = .shift → s.xdone = true →
    ∃ t, exec i s = .next t ∧
      t.idx = s.idx + 1#17 ∧
      t.seq = (if (s.idx + 1#17).toNat = (frameOf i s.params.dummy).length then .desel else .load) ∧
      t = { deliver ((commandOf i s.params.dummy).route s.idx.toNat) s.sr s with idx := t.idx, seq := t.seq }

/-- DESELECT (41_cs_framing.md R101), one engine step of every command in DESEL. -/
def Obligations.EveryCommandDeselects : Prop :=
  ∀ (i : Instr) (s : State), s.seq = .desel → s.inited = true → s.csN = false →
    exec i s = .next { s with csN := true, seq := .resp, trace := s.trace ++ [.cs true] }

/-- Respond (42_register_protocol.md R136), one engine step of every command in RESP: Data with RDATA for RD8 and RD16, else
Done; chip-select is not touched, the block is IDLE again. By the invariant chip-select is high already. -/
def Obligations.EveryCommandResponds : Prop :=
  ∀ (i : Instr) (s : State), s.seq = .resp →
    let r : Response := match i with
      | .rd8 _ _ | .rd16 _ _ => .data s.rdata
      | .init _ _ | .wr8 _ _ | .wr16 _ _ | .rdfifo _ _ | .rdburst _ _ => .done
    exec i s = .next { s with rsp := some r, seq := .idle, trace := s.trace ++ [.respond r] } ∧
    (s.Inv → s.csN = true)

/-! ## Each command -/

/-- INIT (43_init.md R141), phase by phase: acceptance configures the pins and latches the soft-reset write whatever its
operands are; the frame is `[0x0A, 0x1F, 0x52]`; every received byte is dropped; the response is Done. -/
def Obligations.InitEngineSteps : Prop :=
  ∀ (a : Byte) (v : Half) (s : State),
    (s.seq = .idle → s.csN = true → s.sclk = false →
      exec (.init a v) s = .next { s with
        inited := true, op := 0x1#4, addr := 0x1F#8, wdata := 0x0052#16, seq := .sel
        trace := s.trace ++ if s.inited = true then [] else [.oe true] }) ∧
    (s.seq = .load → ∀ b, [0x0A#8, 0x1F#8, 0x52#8][s.idx.toNat]? = some b →
      exec (.init a v) s = .next (xferLoad b s)) ∧
    (s.seq = .shift → s.xdone = true →
      exec (.init a v) s = .next { s with idx := s.idx + 1#17, seq := if s.idx = 2#17 then .desel else .load }) ∧
    (s.seq = .resp → exec (.init a v) s =
      .next { s with rsp := some .done, seq := .idle, trace := s.trace ++ [.respond .done] })

/-- WR8 (42_register_protocol.md R110), phase by phase; `data[15:8]` is latched and never sent. -/
def Obligations.Wr8EngineSteps : Prop :=
  ∀ (a : Byte) (v : Half) (s : State),
    (s.seq = .idle → s.inited = true →
      exec (.wr8 a v) s = .next { s with op := 0x1#4, addr := a, wdata := v, seq := .sel }) ∧
    (s.seq = .load → ∀ b, [0x0A#8, a, v.extractLsb' 0 8][s.idx.toNat]? = some b →
      exec (.wr8 a v) s = .next (xferLoad b s)) ∧
    (s.seq = .shift → s.xdone = true →
      exec (.wr8 a v) s = .next { s with idx := s.idx + 1#17, seq := if s.idx = 2#17 then .desel else .load }) ∧
    (s.seq = .resp → exec (.wr8 a v) s =
      .next { s with rsp := some .done, seq := .idle, trace := s.trace ++ [.respond .done] })

/-- WR16 (42_register_protocol.md R114), phase by phase: the low byte is sent before the high one. -/
def Obligations.Wr16EngineSteps : Prop :=
  ∀ (a : Byte) (v : Half) (s : State),
    (s.seq = .idle → s.inited = true →
      exec (.wr16 a v) s = .next { s with op := 0x2#4, addr := a, wdata := v, seq := .sel }) ∧
    (s.seq = .load → ∀ b, [0x0A#8, a, v.extractLsb' 0 8, v.extractLsb' 8 8][s.idx.toNat]? = some b →
      exec (.wr16 a v) s = .next (xferLoad b s)) ∧
    (s.seq = .shift → s.xdone = true →
      exec (.wr16 a v) s = .next { s with idx := s.idx + 1#17, seq := if s.idx = 3#17 then .desel else .load }) ∧
    (s.seq = .resp → exec (.wr16 a v) s =
      .next { s with rsp := some .done, seq := .idle, trace := s.trace ++ [.respond .done] })

/-- RD8 (42_register_protocol.md R118), phase by phase: RDATA takes the zero-extended byte received at position 2 and the
response carries it. -/
def Obligations.Rd8EngineSteps : Prop :=
  ∀ (a : Byte) (v : Half) (s : State),
    (s.seq = .idle → s.inited = true →
      exec (.rd8 a v) s = .next { s with op := 0x3#4, addr := a, wdata := v, seq := .sel }) ∧
    (s.seq = .load → ∀ b, [0x0B#8, a, s.params.dummy][s.idx.toNat]? = some b →
      exec (.rd8 a v) s = .next (xferLoad b s)) ∧
    (s.seq = .shift → s.xdone = true →
      exec (.rd8 a v) s = .next { s with
        rdata := if s.idx = 2#17 then s.sr.setWidth 16 else s.rdata
        idx := s.idx + 1#17, seq := if s.idx = 2#17 then .desel else .load }) ∧
    (s.seq = .resp → exec (.rd8 a v) s =
      .next { s with rsp := some (.data s.rdata), seq := .idle, trace := s.trace ++ [.respond (.data s.rdata)] })

/-- RD16 (42_register_protocol.md R122), phase by phase: the byte at position 2 goes into RDATA zero-extended, the byte at
position 3 into RDATA[15:8]. -/
def Obligations.Rd16EngineSteps : Prop :=
  ∀ (a : Byte) (v : Half) (s : State),
    (s.seq = .idle → s.inited = true →
      exec (.rd16 a v) s = .next { s with op := 0x4#4, addr := a, wdata := v, seq := .sel }) ∧
    (s.seq = .load → ∀ b, [0x0B#8, a, s.params.dummy, s.params.dummy][s.idx.toNat]? = some b →
      exec (.rd16 a v) s = .next (xferLoad b s)) ∧
    (s.seq = .shift → s.xdone = true →
      exec (.rd16 a v) s = .next { s with
        rdata := if s.idx = 2#17 then s.sr.setWidth 16
          else if s.idx = 3#17 then s.sr ++ s.rdata.extractLsb' 0 8 else s.rdata
        idx := s.idx + 1#17, seq := if s.idx = 3#17 then .desel else .load }) ∧
    (s.seq = .resp → exec (.rd16 a v) s =
      .next { s with rsp := some (.data s.rdata), seq := .idle, trace := s.trace ++ [.respond (.data s.rdata)] })

/-- RDFIFO (42_register_protocol.md R124), phase by phase: the command byte alone carries no address; each byte received
after it is offered on the stream port at its own collect step; RDATA is not written. -/
def Obligations.RdfifoEngineSteps : Prop :=
  ∀ (a : Byte) (n : Half) (s : State),
    (s.seq = .idle → s.inited = true →
      exec (.rdfifo a n) s = .next { s with op := 0x5#4, addr := a, wdata := n, seq := .sel }) ∧
    (s.seq = .load → s.idx.toNat ≤ n.toNat →
      exec (.rdfifo a n) s = .next (xferLoad (if s.idx = 0#17 then 0x0D#8 else s.params.dummy) s)) ∧
    (s.seq = .shift → s.xdone = true →
      exec (.rdfifo a n) s = .next { s with
        sb := if s.idx = 0#17 then s.sb else some s.sr
        trace := if s.idx = 0#17 then s.trace else s.trace ++ [.stream s.sr]
        idx := s.idx + 1#17, seq := if s.idx.toNat = n.toNat then .desel else .load }) ∧
    (s.seq = .resp → exec (.rdfifo a n) s =
      .next { s with rsp := some .done, seq := .idle, trace := s.trace ++ [.respond .done] })

/-- RDBURST (42_register_protocol.md R126), phase by phase: as RDFIFO with an address byte at position 1. -/
def Obligations.RdburstEngineSteps : Prop :=
  ∀ (a : Byte) (n : Half) (s : State),
    (s.seq = .idle → s.inited = true →
      exec (.rdburst a n) s = .next { s with op := 0x6#4, addr := a, wdata := n, seq := .sel }) ∧
    (s.seq = .load → s.idx.toNat ≤ n.toNat + 1 →
      exec (.rdburst a n) s = .next (xferLoad
        (if s.idx = 0#17 then 0x0B#8 else if s.idx = 1#17 then a else s.params.dummy) s)) ∧
    (s.seq = .shift → s.xdone = true →
      exec (.rdburst a n) s = .next { s with
        sb := if s.idx.toNat < 2 then s.sb else some s.sr
        trace := if s.idx.toNat < 2 then s.trace else s.trace ++ [.stream s.sr]
        idx := s.idx + 1#17, seq := if s.idx.toNat = n.toNat + 1 then .desel else .load }) ∧
    (s.seq = .resp → exec (.rdburst a n) s =
      .next { s with rsp := some .done, seq := .idle, trace := s.trace ++ [.respond .done] })

/-! ## The step and the faults -/

/-- A step runs the decoded instruction: in IDLE, with a word on the port that decodes to `i`, the step is exec of `i` on the
state with the output ports cleared and the word taken from the host; in the phases after acceptance it is exec of the
latched command, with the output ports cleared. -/
def Obligations.StepRunsTheDecodedCommand : Prop :=
  ∀ (s : State) (i : Instr), s.params.wellFormed = true → s.rst = 0 →
    (∀ (w : Word) (ws : List Word), s.seq = .idle → s.cmds = w :: ws → decodeWord w = .ok i →
      step s = exec i { s with rsp := none, sb := none, cmds := ws }) ∧
    (s.stBusy = true → commandOfFields s.op s.addr s.wdata = some i →
      step s = exec i { s with rsp := none, sb := none })

/-- Accept (42_register_protocol.md R134), the step's whole table: an illegal word raises IllegalOp, whatever INITED is; a
legal command other than INIT raises NotInit while INITED is 0; otherwise the command is latched, INIT as the constants of
the soft reset. That the word leaves `cmds` and a response is listed in `trace` is the model's record (log entries 3, 8). -/
def Obligations.AcceptTable : Prop :=
  ∀ (s : State) (w : Word) (ws : List Word), s.params.wellFormed = true → s.rst = 0 → s.seq = .idle →
    s.csN = true → s.sclk = false → s.cmds = w :: ws →
    step s =
      if w.extractLsb' 24 4 ≠ 0#4 ∨ 7 ≤ (w.extractLsb' 28 4).toNat then
        .next { s with
          cmds := ws, sb := none, err := 1#2, rsp := some (.fault 1#2), seq := .fault
          trace := s.trace ++ [.respond (.fault 1#2)] }
      else if w.extractLsb' 28 4 ≠ 0#4 ∧ s.inited = false then
        .next { s with
          cmds := ws, sb := none, err := 2#2, rsp := some (.fault 2#2), seq := .fault
          trace := s.trace ++ [.respond (.fault 2#2)] }
      else if w.extractLsb' 28 4 = 0#4 then
        .next { s with
          cmds := ws, sb := none, rsp := none, inited := true
          op := 0x1#4, addr := 0x1F#8, wdata := 0x0052#16, seq := .sel
          trace := s.trace ++ if s.inited = true then [] else [.oe true] }
      else
        .next { s with
          cmds := ws, sb := none, rsp := none
          op := w.extractLsb' 28 4, addr := w.extractLsb' 16 8, wdata := w.extractLsb' 0 16, seq := .sel }

/-- IllegalOp (60_exceptions.md R151): no pin event, nothing latched, INITED unchanged. -/
def Obligations.IllegalOpLeavesNoTrace : Prop :=
  ∀ (s : State) (w : Word) (ws : List Word) (e : DecodeError), s.params.wellFormed = true → s.rst = 0 →
    s.seq = .idle → s.csN = true → s.sclk = false → s.cmds = w :: ws → decodeWord w = .error e →
    ∃ t, step s = .next t ∧ t.seq = .fault ∧ t.err = 1#2 ∧ t.rsp = some (.fault 1#2) ∧
      pinEvents t.trace = pinEvents s.trace ∧
      t.op = s.op ∧ t.addr = s.addr ∧ t.wdata = s.wdata ∧ t.inited = s.inited

/-- NotInit (60_exceptions.md R154): any command other than INIT presented while INITED is 0 is faulted, with no pin
event; INIT never is. -/
def Obligations.NotInitBeforeInit : Prop :=
  ∀ (s : State) (i : Instr) (ws : List Word), s.params.wellFormed = true → s.rst = 0 → s.seq = .idle →
    s.csN = true → s.sclk = false → s.inited = false → s.cmds = encode i :: ws →
    ∃ t, step s = .next t ∧
      match i with
      | .init _ _ => t.seq = .sel ∧ t.err = s.err ∧ t.inited = true
      | .wr8 _ _ | .wr16 _ _ | .rd8 _ _ | .rd16 _ _ | .rdfifo _ _ | .rdburst _ _ =>
        t.seq = .fault ∧ t.err = 2#2 ∧ t.rsp = some (.fault 2#2) ∧ t.inited = false ∧
          pinEvents t.trace = pinEvents s.trace

/-- Fault entry (60_exceptions.md R156): what it writes and what it keeps, with the pin event that closes an open frame. -/
def Obligations.FaultEntry : Prop :=
  ∀ (f : BusFault) (s : State), s.sclk = false →
    let code : BitVec 2 := match f with
      | .illegalOp => 1#2
      | .notInit => 2#2
      | .timeout => 3#2
    raise f s = { s with
      sclk := false, csN := true, err := code, rsp := some (.fault code), seq := .fault
      trace := s.trace ++ (if s.inited = true ∧ s.csN = false then [.cs true] else []) ++ [.respond (.fault code)] }

/-- Timeout (60_exceptions.md R152, 40_shift_engine.md R88): with TIMEOUT polls of this XFER spent and XDONE still 0, every
command faults at its next poll, and the open frame is closed. -/
def Obligations.TimeoutFaultsEveryCommand : Prop :=
  ∀ (i : Instr) (s : State), s.seq = .shift → s.xdone = false → s.params.timeout = some s.pollCount →
    s.inited = true → s.csN = false → s.sclk = false →
    exec i s = .next { s with
      csN := true, err := 3#2, rsp := some (.fault 3#2), seq := .fault
      trace := s.trace ++ [.cs true, .respond (.fault 3#2)] }

/-- The FAULT phase (60_exceptions.md R157, U16): no step but reset leaves it; a presented command is never accepted and no
response is raised; the outputs are at rest and the code stands in ERR. -/
def Obligations.FaultIsQuiescent : Prop :=
  ∀ s : State, s.params.wellFormed = true → s.rst = 0 → s.seq = .fault →
    step s = .next { s with rsp := none, sb := none } ∧ s.stBusy = false ∧ s.cmdReady = false ∧
    (s.Inv → s.csN = true ∧ s.sclk = false ∧ s.stErr ≠ 0#2)

/-- Reset (70_reset_and_hazards.md R170): while `rst` is asserted, every step answers the reset values, from any state and
with any configuration the model runs; the pins are not driven and `cmd_ready` is 1. Of the elements the spec leaves
unspecified nothing is said. -/
def Obligations.ResetStep : Prop :=
  ∀ s : State, s.params.wellFormed = true → 0 < s.rst →
    ∃ t, step s = .next t ∧
      t.xdone = false ∧ t.bitcnt = 0#4 ∧ t.polls = freshPolls s.params ∧ t.pollCount = 0 ∧ t.sclk = false ∧
      t.csN = true ∧ t.inited = false ∧ t.seq = .idle ∧ t.idx = 0#17 ∧ t.err = 0#2 ∧ t.rspValid = false ∧ t.sbValid = false ∧
      t.pinCsN = none ∧ t.pinSclk = none ∧ t.pinMosi = none ∧ t.cmdReady = true

/-- The state after reset has the values of 70_reset_and_hazards.md R170. -/
def Obligations.ResetState : Prop :=
  State.reset.xdone = false ∧ State.reset.bitcnt = 0#4 ∧ State.reset.pollCount = 0 ∧ State.reset.sclk = false ∧
  State.reset.csN = true ∧ State.reset.inited = false ∧ State.reset.seq = .idle ∧ State.reset.idx = 0#17 ∧
  State.reset.err = 0#2 ∧ State.reset.rspValid = false ∧ State.reset.sbValid = false ∧
  State.reset.cmdReady = true ∧ State.reset.pinCsN = none ∧ State.reset.pinSclk = none ∧ State.reset.pinMosi = none

/-- Reset of the block does not reset what is outside it, and drops the command in flight without a response
(70_reset_and_hazards.md R171, R172): the device, the clock source, the words the host holds and everything already
streamed or answered stay. That one step of `rst` leaves them as they are is the model's choice (log entry 4). -/
def Obligations.ResetKeepsTheOutside : Prop :=
  ∀ s t : State, 0 < s.rst → step s = .next t →
    t.device = s.device ∧ t.clock = s.clock ∧ t.cmds = s.cmds ∧ t.params = s.params ∧
    streamed t.trace = streamed s.trace ∧ responses t.trace = responses s.trace ∧ t.rsp = none

/-- A TIMEOUT below 8 is refused before anything runs (40_shift_engine.md R88), and nothing else is refused: in a
configuration the model runs, every step of every state answers a next state or stops at a state no run reaches. The
refusal is the model's form of R88's "should refuse" (log entry 5). -/
def Obligations.OnlyShortTimeoutsAreRefused : Prop :=
  (∀ (s : State) (n : Nat), s.params.timeout = some n → n < 8 → step s = .refused .timeoutBelowEight) ∧
  (∀ (s : State) (r : Refusal), s.params.wellFormed = true → step s ≠ .refused r)

/-! ## Invariants and rules of the whole machine -/

/-- The reset state meets the invariant. -/
def Obligations.ResetMeetsTheInvariant : Prop := State.reset.Inv

/-- Every step keeps the invariant (10_state.md R33, 41_cs_framing.md R104), from every state that meets it. -/
def Obligations.StepKeepsTheInvariant : Prop :=
  ∀ s t : State, s.Inv → step s = .next t → t.Inv

/-- From every state that meets the invariant, in a configuration the model runs, the step answers a next state: the block's
transition table has an enabled row or a waiting one in every state (42_register_protocol.md R137, R138). -/
def Obligations.InvariantStepsAnswer : Prop :=
  ∀ s : State, s.Inv → s.params.wellFormed = true → ∃ t, step s = .next t

/-- R33 (f) read over the phase SEL is not kept by acceptance: a command with a shorter frame than the one before is latched
while IDX still holds the earlier frame's end (V20, log entry 10). -/
def Obligations.AcceptMayLeaveIdxPastTheFrame : Prop :=
  ∃ s t : State, s.Inv ∧ step s = .next t ∧ s.idx.toNat ≤ s.frameLength ∧ t.seq = .sel ∧ t.frameLength < t.idx.toNat

/-- IDX stays within the frame it counts (10_state.md R22, R33 f; log entry 10): within the frame of the latches in every
phase but SEL; in SEL it is still the one of the frame before, within that frame, and the next step sets it to 0. -/
def Obligations.IndexStaysInTheFrameItCounts : Prop :=
  ∀ s t : State, s.Inv → step s = .next t →
    (t.seq ≠ .sel → t.idx.toNat ≤ t.frameLength) ∧
    (t.seq = .sel → s.seq = .idle ∧ t.idx = s.idx ∧ t.idx.toNat ≤ s.frameLength) ∧
    (s.seq = .sel → t.idx = 0#17)

/-- Chip-select is high whenever SEQ is IDLE, SEL, RESP or FAULT and low from SELECT to DESELECT, and only SELECT, DESELECT,
a Timeout and reset move it (41_cs_framing.md R104). -/
def Obligations.ChipSelectFraming : Prop :=
  ∀ s t : State, s.Inv → step s = .next t →
    (t.seq = .idle ∨ t.seq = .sel ∨ t.seq = .resp ∨ t.seq = .fault → t.csN = true) ∧
    (t.seq = .load ∨ t.seq = .shift ∨ t.seq = .desel → t.csN = false) ∧
    (t.csN ≠ s.csN → 0 < s.rst ∨ (s.seq = .sel ∧ t.seq = .load) ∨ (s.seq = .desel ∧ t.seq = .resp) ∨
      (s.seq = .shift ∧ t.seq = .fault ∧ t.err = 3#2))

/-- ERR is sticky: fault entry writes it, nothing clears it but reset (10_state.md R24). -/
def Obligations.ErrorIsSticky : Prop :=
  ∀ s t : State, s.Inv → s.rst = 0 → step s = .next t →
    (s.err ≠ 0#2 → t.err = s.err) ∧ (t.err ≠ s.err → t.seq = .fault ∧ s.seq ≠ .fault ∧ t.rsp = some (.fault t.err))

/-- Only INIT sets INITED and only reset clears it (10_state.md R18). -/
def Obligations.InitedIsSetByInitOnly : Prop :=
  ∀ s t : State, step s = .next t →
    (s.inited = true → t.inited = false → 0 < s.rst) ∧
    (s.inited = false → t.inited = true →
      s.seq = .idle ∧ ∃ a d ws, s.cmds = encode (.init a d) :: ws)

/-- The pins follow INITED (10_state.md R18, R19, R30): while it is 0 the outputs are not driven and the pull-up is off; while
it is 1 they show the latches and SR[7], and an undriven data-in line reads 1. -/
def Obligations.PinsFollowInited : Prop :=
  ∀ s : State,
    (s.inited = false → s.pinCsN = none ∧ s.pinSclk = none ∧ s.pinMosi = none ∧ s.pullUp = false) ∧
    (s.inited = true → s.pinCsN = some s.csN ∧ s.pinSclk = some s.sclk ∧ s.pullUp = true ∧
      (s.srLoaded = true → s.pinMosi = some (s.sr.getLsbD 7)) ∧ (s.device = .script [] → s.pinMiso = true) ∧
      ∀ b bits, s.device = .script (b :: bits) → s.pinMiso = b)

/-- POLLS (10_state.md R15), in every state that meets the invariant: absent with no TIMEOUT; with one, a counter of the least
width that holds it, 0 after a load and after a reset, one higher after every poll whether or not the pulse took effect. -/
def Obligations.PollsCountsThePolls : Prop :=
  ∀ s : State, s.Inv → s.params.wellFormed = true →
    (s.params.timeout = none → s.polls = none) ∧
    ∀ n : Nat, s.params.timeout = some n →
      (∃ c : PollCounter, s.polls = some c ∧ s.pollCount = c.count.toNat ∧ n < 2 ^ c.width ∧
        ∀ w : Nat, n < 2 ^ w → c.width ≤ w) ∧
      (0 < s.rst → ∃ t, step s = .next t ∧ t.pollCount = 0) ∧
      (s.rst = 0 → s.seq = .load → ∃ t, step s = .next t ∧ t.pollCount = 0) ∧
      (s.rst = 0 → s.seq = .shift → s.xdone = false → s.pollCount ≠ n →
        ∃ t, step s = .next t ∧ t.pollCount = s.pollCount + 1)

/-- OP, ADDR and WDATA are written at acceptance and do not change until the next one or a reset (10_state.md R21). -/
def Obligations.LatchesHoldUntilTheNextAcceptance : Prop :=
  ∀ s t : State, s.rst = 0 → step s = .next t → t.op ≠ s.op ∨ t.addr ≠ s.addr ∨ t.wdata ≠ s.wdata →
    s.seq = .idle ∧ t.seq = .sel

/-- Changing what the host presents after acceptance does not affect the command in flight (10_state.md R21, 20_memory.md
R53): a step of a busy block is the same but for the words the host holds. -/
def Obligations.PortIsIgnoredWhileBusy : Prop :=
  ∀ (s t : State) (ws : List Word), s.stBusy = true → s.rst = 0 → step s = .next t →
    t.cmds = s.cmds ∧ step { s with cmds := ws } = .next { t with cmds := ws }

/-- The data-in line is read only inside PULSE (40_shift_engine.md R84): in a step that makes no pulse, putting another device
on the bus changes nothing but the device. -/
def Obligations.DataInIsReadOnlyByPulses : Prop :=
  ∀ (s t : State) (d : Device), step s = .next t →
    0 < s.rst ∨ s.seq ≠ .shift ∨ s.xdone = true ∨ s.clock.answer s.draws = false →
    ∃ e, step { s with device := d } = .next { t with device := e }

/-- No step writes the parameters (10_state.md R32), and the fixture's registers stay in canonical form. -/
def Obligations.StepKeepsParametersAndMemoryForm : Prop :=
  ∀ s t : State, step s = .next t → t.params = s.params ∧ (s.device.wf → t.device.wf)

/-! ## Frames: what a command's engine step leaves alone -/

/-- INIT, WR8 and WR16, every engine step of them: RDATA and the stream port are not written, nor is anything outside the
block but the clock source, the device and the poll counter; in every phase but IDLE the latches and INITED stay. Every
byte of the fixture's registers but the one a poll's eighth edge stores reads as before. -/
def Obligations.WriteCommandsFrame : Prop :=
  ∀ (a : Byte) (v : Half) (s t : State),
    exec (.init a v) s = .next t ∨ exec (.wr8 a v) s = .next t ∨ exec (.wr16 a v) s = .next t →
    t.rdata = s.rdata ∧ t.sb = s.sb ∧ t.params = s.params ∧ t.rst = s.rst ∧ t.cmds = s.cmds ∧
    (s.seq ≠ .idle → t.op = s.op ∧ t.addr = s.addr ∧ t.wdata = s.wdata ∧ t.inited = s.inited) ∧
    (s.seq ≠ .shift → t.bitcnt ≠ s.bitcnt ∨ t.sr ≠ s.sr ∨ t.xdone ≠ s.xdone → s.seq = .load) ∧
    (s.seq ≠ .shift → t.latch = s.latch ∧ t.clock = s.clock ∧ t.draws = s.draws) ∧
    (t.err ≠ s.err → t.seq = .fault) ∧
    ∀ k : Nat, (s.seq = .shift → s.xdone = false → s.device.storeAddr ≠ some k) → t.device.peek k = s.device.peek k

/-- RD8 and RD16, every engine step of them: RDATA changes only at a collect of frame byte 2 or 3, the stream port is not
written, and the rest is as for the writes. -/
def Obligations.ReadCommandsFrame : Prop :=
  ∀ (a : Byte) (v : Half) (s t : State),
    exec (.rd8 a v) s = .next t ∨ exec (.rd16 a v) s = .next t →
    (t.rdata ≠ s.rdata → s.seq = .shift ∧ s.xdone = true ∧ (s.idx = 2#17 ∨ s.idx = 3#17)) ∧
    t.sb = s.sb ∧ t.params = s.params ∧ t.rst = s.rst ∧ t.cmds = s.cmds ∧ t.inited = s.inited ∧
    (s.seq ≠ .idle → t.op = s.op ∧ t.addr = s.addr ∧ t.wdata = s.wdata) ∧
    (s.seq ≠ .shift → t.bitcnt ≠ s.bitcnt ∨ t.sr ≠ s.sr ∨ t.xdone ≠ s.xdone → s.seq = .load) ∧
    (s.seq ≠ .shift → t.latch = s.latch ∧ t.clock = s.clock ∧ t.draws = s.draws) ∧
    (t.err ≠ s.err → t.seq = .fault) ∧
    ∀ k : Nat, (s.seq = .shift → s.xdone = false → s.device.storeAddr ≠ some k) → t.device.peek k = s.device.peek k

/-- RDFIFO and RDBURST, every engine step of them: RDATA is not written; the stream port changes only at a collect of a data
byte; the rest is as for the writes. -/
def Obligations.StreamCommandsFrame : Prop :=
  ∀ (a : Byte) (n : Half) (s t : State),
    exec (.rdfifo a n) s = .next t ∨ exec (.rdburst a n) s = .next t →
    t.rdata = s.rdata ∧
    (t.sb ≠ s.sb → s.seq = .shift ∧ s.xdone = true ∧ s.idx ≠ 0#17 ∧ t.sb = some s.sr) ∧
    t.params = s.params ∧ t.rst = s.rst ∧ t.cmds = s.cmds ∧ t.inited = s.inited ∧
    (s.seq ≠ .idle → t.op = s.op ∧ t.addr = s.addr ∧ t.wdata = s.wdata) ∧
    (s.seq ≠ .shift → t.bitcnt ≠ s.bitcnt ∨ t.sr ≠ s.sr ∨ t.xdone ≠ s.xdone → s.seq = .load) ∧
    (s.seq ≠ .shift → t.latch = s.latch ∧ t.clock = s.clock ∧ t.draws = s.draws) ∧
    (t.err ≠ s.err → t.seq = .fault) ∧
    ∀ k : Nat, (s.seq = .shift → s.xdone = false → s.device.storeAddr ≠ some k) → t.device.peek k = s.device.peek k

/-! ## Transfers and whole commands -/

/-- XFER (40_shift_engine.md R80, R82): eight polls the clock source answers true move one byte each way. The byte sent
leaves highest bit first; the byte in SR afterwards is the eight sampled bits, the first one highest; XDONE is 1. -/
def Obligations.TransferMovesOneByte : Prop :=
  ∀ (i : Instr) (s : State) (out inp : Byte) (rest : List Bool), s.seq = .load → s.rst = 0 →
    s.params.wellFormed = true → s.inFlight = some i → s.inited = true → s.sclk = false → s.neverStalls →
    (frameOf i s.params.dummy)[s.idx.toNat]? = some out → s.device = .script (bitsOf inp ++ rest) →
    ∃ t es, runFor 9 s = .next t ∧ t.trace = s.trace ++ es ∧
      t.sr = inp ∧ t.xdone = true ∧ t.bitcnt = 8#4 ∧ t.seq = .shift ∧ t.sclk = false ∧ t.idx = s.idx ∧
      t.csN = s.csN ∧ t.err = s.err ∧ t.device = .script rest ∧
      byteEvents es = [.xf out inp] ∧ mosiAtEdges es = bitsOf out ∧ clockCycles es = 8

/-- The pin events of one XFER (40_shift_engine.md R90): MOSI is driven with each bit in turn before its rising edge, the
clock makes eight whole cycles, and the last level left on MOSI is the first bit sampled. `MOSI(b)` appears only where the
level changes (00_scope.md R8). -/
def Obligations.TransferPinTrace : Prop :=
  ∀ (i : Instr) (s : State) (out : Byte) (m1 m2 m3 m4 m5 m6 m7 m8 : Bool) (rest : List Bool),
    s.seq = .load → s.rst = 0 → s.params.wellFormed = true → s.inFlight = some i → s.inited = true →
    s.sclk = false → s.neverStalls → (frameOf i s.params.dummy)[s.idx.toNat]? = some out →
    s.device = .script ([m1, m2, m3, m4, m5, m6, m7, m8] ++ rest) →
    let redrive (old new : Bool) : List Event := if old = new then [] else [.mosi new]
    let cycle : List Event := [.sclk true, .sclk false]
    ∃ t es, runFor 9 s = .next t ∧ t.trace = s.trace ++ es ∧
      pinEvents es =
        redrive s.mosi (out.getLsbD 7) ++
        cycle ++ redrive (out.getLsbD 7) (out.getLsbD 6) ++ cycle ++ redrive (out.getLsbD 6) (out.getLsbD 5) ++
        cycle ++ redrive (out.getLsbD 5) (out.getLsbD 4) ++ cycle ++ redrive (out.getLsbD 4) (out.getLsbD 3) ++
        cycle ++ redrive (out.getLsbD 3) (out.getLsbD 2) ++ cycle ++ redrive (out.getLsbD 2) (out.getLsbD 1) ++
        cycle ++ redrive (out.getLsbD 1) (out.getLsbD 0) ++ cycle ++ redrive (out.getLsbD 0) m1

/-- Stalls add steps and nothing else (40_shift_engine.md R86, R90; V9): whatever the clock source's answers, once eight of
them are true and the last one is the eighth, the transfer has made the same events and received the same byte. -/
def Obligations.StallsChangeNothing : Prop :=
  ∀ (i : Instr) (s : State) (answers : List Bool) (after : Bool), s.seq = .load → s.rst = 0 →
    s.params.timeout = none → s.inFlight = some i → s.inited = true → s.sclk = false → s.device ≠ .oracle →
    s.idx.toNat < s.frameLength → answers.count true = 8 → answers.getLast? = some true →
    ∃ t u, runFor (1 + answers.length) { s with clock := .script answers after } = .next t ∧
      runFor 9 { s with clock := .script [] true } = .next u ∧
      t = { u with clock := .script [] after, draws := s.draws + answers.length }

/-- The hang (40_shift_engine.md R92, U9): with no TIMEOUT, inside a transfer, a clock source that never answers true again
keeps the block polling for ever, chip-select asserted, with no response and no later command accepted. -/
def Obligations.StalledClockHangs : Prop :=
  ∀ (s : State) (n : Nat), s.seq = .shift → s.xdone = false → s.rst = 0 → s.params.timeout = none →
    s.inFlight.isSome = true → s.clock = .script [] false →
    ∃ t, runFor n s = .next t ∧ t.seq = .shift ∧ t.xdone = false ∧ t.csN = s.csN ∧ t.stBusy = true ∧
      t.cmdReady = false ∧ t.trace = s.trace ∧ t.cmds = s.cmds ∧ (0 < n → t.rsp = none) ∧ (s.Inv → t.csN = false)

/-- A whole command (41_cs_framing.md R102, 42_register_protocol.md R136 to R138, 70_reset_and_hazards.md R191): with no
stall, a command presented to a ready block ends, after 4 + 10 * len(frame) engine steps, in IDLE with its one response,
having made exactly one framed exchange of its frame, whatever the device; the bytes received are those the response and
the stream carry. INIT needs no INITED. -/
def Obligations.CommandRunsToItsResponse : Prop :=
  ∀ (i : Instr) (s : State) (ws : List Word), s.Ready → s.neverStalls → s.cmds = encode i :: ws →
    (s.inited = true ∨ i.opcode = 0x0#4) →
    ∃ (t : State) (es : List Event) (ins : List Byte),
      runFor (4 + 10 * (frameOf i s.params.dummy).length) s = .next t ∧
      t.trace = s.trace ++ es ∧ ins.length = (frameOf i s.params.dummy).length ∧
      byteEvents es = (if s.inited = true then [] else [.oe]) ++ frameTrace (frameOf i s.params.dummy) ins ∧
      clockCycles es = 8 * (frameOf i s.params.dummy).length ∧
      streamed es = streamOf i ins ∧ responses es = [resultOf i ins] ∧ t.rsp = some (resultOf i ins) ∧
      t.seq = .idle ∧ t.csN = true ∧ t.sclk = false ∧ t.inited = true ∧ t.err = s.err ∧ t.cmds = ws

/-- What the device drives at the data positions is what the command returns (42_register_protocol.md R118, R122, R124,
R126), for every command and every sequence of bytes from the device. -/
def Obligations.ReceivedBytesAreTheDevices : Prop :=
  ∀ (i : Instr) (s : State) (ws : List Word) (ins : List Byte) (rest : List Bool), s.Ready → s.neverStalls →
    s.cmds = encode i :: ws → (s.inited = true ∨ i.opcode = 0x0#4) →
    ins.length = (frameOf i s.params.dummy).length → s.device = .script (ins.flatMap bitsOf ++ rest) →
    ∃ (t : State) (es : List Event),
      runFor (4 + 10 * (frameOf i s.params.dummy).length) s = .next t ∧
      t.trace = s.trace ++ es ∧ t.rsp = some (resultOf i ins) ∧ streamed es = streamOf i ins ∧
      t.device = .script rest

/-- Every accepted command ends under assumption A-CLK (40_shift_engine.md R86, 70_reset_and_hazards.md R187), rendered as a
scripted clock source with finitely many stalls: a command presented to a ready block without a TIMEOUT runs to its
response. The free clock source is left out. -/
def Obligations.CommandEndsUnderAClk : Prop :=
  ∀ (i : Instr) (s : State) (ws : List Word) (answers : List Bool), s.Ready → s.params.timeout = none →
    s.clock = .script answers true → s.cmds = encode i :: ws → (s.inited = true ∨ i.opcode = 0x0#4) →
    ∃ n t, runFor n s = .next t ∧ t.seq = .idle ∧ t.err = s.err ∧ t.cmds = ws ∧ t.rsp.isSome = true

/-- On the fixture device a write stores its bytes and nothing else (20_memory.md R43, R45): WR8 the low byte at the address,
WR16 the low byte at the address and the high byte at the next one, modulo 256, INIT `0x52` at `0x1F`, counted as one soft
reset (43_init.md R141). -/
def Obligations.WritesStoreInTheFixture : Prop :=
  ∀ (a : Byte) (v : Half) (s : State) (ws : List Word) (f : Fixture), s.Ready → s.neverStalls →
    s.device = .fixture f → Memory.wf f.regs →
    (s.cmds = encode (.init a v) :: ws → ∃ t g, runFor 34 s = .next t ∧ t.rsp = some .done ∧
      t.device = .fixture g ∧ g.resets = f.resets + 1 ∧
      ∀ k : Nat, t.device.peek k = some (if k = 0x1F then 0x52#8 else Memory.read f.regs k)) ∧
    (s.inited = true → s.cmds = encode (.wr8 a v) :: ws → ∃ t, runFor 34 s = .next t ∧ t.rsp = some .done ∧
      ∀ k : Nat, t.device.peek k = some (if k = a.toNat then lowByte v else Memory.read f.regs k)) ∧
    (s.inited = true → s.cmds = encode (.wr16 a v) :: ws → ∃ t, runFor 44 s = .next t ∧ t.rsp = some .done ∧
      ∀ k : Nat, t.device.peek k = some (if k = (a + 1#8).toNat then highByte v
        else if k = a.toNat then lowByte v else Memory.read f.regs k))

/-- The reading commands leave the fixture's registers as they are (20_memory.md R50). -/
def Obligations.ReadsLeaveTheFixtureRegisters : Prop :=
  ∀ (i : Instr) (s : State) (ws : List Word) (f : Fixture), s.Ready → s.neverStalls → s.inited = true →
    s.device = .fixture f → s.cmds = encode i :: ws → 3 ≤ i.opcode.toNat →
    ∃ t, runFor (4 + 10 * (frameOf i s.params.dummy).length) s = .next t ∧
      ∀ k : Nat, t.device.peek k = some (Memory.read f.regs k)

/-- The round trip (42_register_protocol.md R129) on the simulated register store: writing a value and reading it back
returns it, for the 8-bit and the 16-bit variant, at every address. -/
def Obligations.RoundTripThroughTheFixture : Prop :=
  ∀ (a : Byte) (v d : Half) (s : State) (ws : List Word) (f : Fixture), s.Ready → s.neverStalls →
    s.inited = true → s.device = .fixture f → Memory.wf f.regs →
    (s.cmds = encode (.wr8 a v) :: encode (.rd8 a d) :: ws →
      ∃ t, runFor 68 s = .next t ∧ t.rsp = some (.data (zextByte (lowByte v))) ∧ t.cmds = ws) ∧
    (s.cmds = encode (.wr16 a v) :: encode (.rd16 a d) :: ws →
      ∃ t, runFor 88 s = .next t ∧ t.rsp = some (.data v) ∧ t.cmds = ws)
end

