-- ==== Sys2Proof/Laws/Counter.lean ====
section
/-! SUPPORT. The laws of POLLS (10_state.md R15) and of the data-in level (R18, R30). -/

namespace Sys2Proof.Machine

/-- `pollWidth` is the least width: a value of `TIMEOUT` fits it, and fits no smaller one. -/
theorem pollWidth_least (t : Nat) (ht : t ≠ 0) : t < 2 ^ pollWidth t ∧ ∀ w, t < 2 ^ w → pollWidth t ≤ w :=
  ⟨Nat.lt_log2_self, fun _ hw => (Nat.log2_lt ht).mpr hw⟩

@[simp] theorem PollCounter.plus_width (k : Nat) (c : PollCounter) : (c.plus k).width = c.width := rfl

/-- Counting twice is counting the sum. -/
theorem PollCounter.plus_comp (j k : Nat) :
    PollCounter.plus k ∘ PollCounter.plus j = PollCounter.plus (j + k) := by
  funext c
  obtain ⟨w, v⟩ := c
  show PollCounter.mk w (v + BitVec.ofNat w j + BitVec.ofNat w k) = PollCounter.mk w (v + BitVec.ofNat w (j + k))
  rw [BitVec.add_assoc, BitVec.ofNat_add]

/-- Counting a poll moves the counter up by one, while it has room. -/
theorem PollCounter.plus_one (c : PollCounter) (h : c.count.toNat + 1 < 2 ^ c.width) :
    (c.plus 1).count.toNat = c.count.toNat + 1 := by
  have h1 : 1 < 2 ^ c.width := by omega
  simp only [PollCounter.plus, BitVec.toNat_add, BitVec.toNat_ofNat]
  rw [Nat.mod_eq_of_lt h1, Nat.mod_eq_of_lt h]

/-- A counted poll moves the number up by at most one. -/
theorem pollCount_counted_le {s t : State}
    (h : t.polls = if s.params.timeout = none then s.polls else s.polls.map (PollCounter.plus 1)) :
    t.pollCount ≤ s.pollCount + 1 := by
  unfold State.pollCount
  rw [h]
  split_ifs
  · omega
  · cases hp : s.polls with
    | none => simp
    | some c =>
      have h1 : 1 % 2 ^ c.width ≤ 1 := Nat.mod_le _ _
      have h2 : (c.count.toNat + 1 % 2 ^ c.width) % 2 ^ c.width ≤ c.count.toNat + 1 % 2 ^ c.width := Nat.mod_le _ _
      simp only [Option.map_some, PollCounter.plus, BitVec.toNat_add, BitVec.toNat_ofNat]
      omega

/-- A fresh counter stands at 0. -/
@[simp] theorem pollCount_fresh {s : State} {p : Params} (h : s.polls = freshPolls p) : s.pollCount = 0 := by
  unfold State.pollCount
  rw [h, freshPolls]
  cases p.timeout <;> simp

/-- A fresh counter has the width `TIMEOUT` asks for, and is absent where there is none. -/
@[simp] theorem freshPolls_width (p : Params) : (freshPolls p).map PollCounter.width = p.timeout.map pollWidth := by
  cases h : p.timeout <;> simp [freshPolls, h]

/-- With the pins configured the block reads the device, or the pull-up's 1. -/
theorem pinMiso_of_inited {s : State} (h : s.inited = true) : s.pinMiso = s.device.miso s.draws := by
  simp [State.pinMiso, State.pullUp, h]

end Sys2Proof.Machine
end

