-- ==== Sys2Proof/Laws/Memory.lean ====
section
/-! SUPPORT. The laws of the fixture's registers: read after write, and the canonical form. -/

namespace Sys2Proof.Machine

theorem Memory.read_write_other (m : Memory) (a k : Nat) (v : Byte) (h : k ≠ a) :
    Memory.read (Memory.write m a v) k = Memory.read m k := by
  induction m with
  | nil =>
    simp only [Memory.write]
    split
    · rfl
    · simp [Memory.read, Ne.symm h]
  | cons c r ih =>
    obtain ⟨j, w⟩ := c
    simp only [Memory.write]
    split
    · split
      · rfl
      · simp [Memory.read, Ne.symm h]
    · split
      · rename_i hj
        subst hj
        split <;> simp [Memory.read, Ne.symm h]
      · simp [Memory.read, ih]

/-- Below every listed address nothing is listed. -/
theorem Memory.read_of_lt (m : Memory) (a : Nat) (h : ∀ c ∈ m, a < c.1) :
    Memory.read m a = Memory.unlisted a := by
  induction m with
  | nil => rfl
  | cons c r ih =>
    obtain ⟨j, w⟩ := c
    have hj : a < j := h (j, w) (by simp)
    rw [Memory.read, if_neg (by omega)]
    exact ih fun c hc => h c (by simp [hc])

theorem Memory.read_write_same (m : Memory) (a : Nat) (v : Byte) (h : Memory.wf m) :
    Memory.read (Memory.write m a v) a = v := by
  induction m with
  | nil =>
    simp only [Memory.write]
    split
    · rename_i hv; rw [hv]; rfl
    · simp [Memory.read]
  | cons c r ih =>
    obtain ⟨j, w⟩ := c
    obtain ⟨hp, hc⟩ := h
    obtain ⟨hj, hp⟩ := List.pairwise_cons.mp hp
    simp only [Memory.write]
    split
    · rename_i hlt
      split
      · rename_i hv
        rw [Memory.read_of_lt _ _ ?_, hv]
        intro c hcm
        rcases List.mem_cons.mp hcm with rfl | hcm
        · exact hlt
        · exact lt_trans hlt (hj c hcm)
      · simp [Memory.read]
    · split
      · rename_i hj'
        subst hj'
        split
        · rename_i hv
          rw [Memory.read_of_lt _ _ hj, hv]
        · simp [Memory.read]
      · rename_i h1 h2
        rw [Memory.read, if_neg (by omega)]
        exact ih ⟨hp, fun c hc' => hc c (by simp [hc'])⟩

theorem Memory.mem_write (m : Memory) (a : Nat) (v : Byte) (c : Host.Cell) (h : c ∈ Memory.write m a v) :
    c ∈ m ∨ (c = (a, v) ∧ v ≠ Memory.unlisted a) := by
  induction m with
  | nil =>
    simp only [Memory.write] at h
    split at h <;> simp_all
  | cons d r ih =>
    obtain ⟨j, w⟩ := d
    simp only [Memory.write] at h
    split at h
    · split at h
      · exact .inl h
      · rcases List.mem_cons.mp h with rfl | h
        · exact .inr ⟨rfl, ‹_›⟩
        · exact .inl h
    · split at h
      · split at h
        · exact .inl (List.mem_cons_of_mem _ h)
        · rcases List.mem_cons.mp h with rfl | h
          · exact .inr ⟨rfl, ‹_›⟩
          · exact .inl (List.mem_cons_of_mem _ h)
      · rcases List.mem_cons.mp h with rfl | h
        · exact .inl (by simp)
        · exact (ih h).imp (List.mem_cons_of_mem _) id

theorem Memory.write_wf (m : Memory) (a : Nat) (v : Byte) (h : Memory.wf m) (ha : a < 256) :
    Memory.wf (Memory.write m a v) := by
  refine ⟨?_, fun c hc => ?_⟩
  · obtain ⟨hp, hc⟩ := h
    clear hc
    induction m with
    | nil =>
      simp only [Memory.write]
      split <;> simp
    | cons d r ih =>
      obtain ⟨j, w⟩ := d
      obtain ⟨hj, hr⟩ := List.pairwise_cons.mp hp
      simp only [Memory.write]
      split
      · rename_i hlt
        split
        · exact hp
        · refine List.pairwise_cons.mpr ⟨fun c hc => ?_, hp⟩
          rcases List.mem_cons.mp hc with rfl | hc
          · exact hlt
          · exact lt_trans hlt (hj c hc)
      · split
        · rename_i heq
          subst heq
          split
          · exact hr
          · exact List.pairwise_cons.mpr ⟨hj, hr⟩
        · rename_i h1 h2
          refine List.pairwise_cons.mpr ⟨fun c hc => ?_, ih hr⟩
          rcases Memory.mem_write _ _ _ _ hc with hc | ⟨rfl, -⟩
          · exact hj c hc
          · show j < a; omega
  · rcases Memory.mem_write _ _ _ _ hc with hc | ⟨rfl, hv⟩
    · exact h.2 c hc
    · exact ⟨ha, hv⟩

theorem Memory.nil_wf : Memory.wf [] := ⟨List.Pairwise.nil, fun _ hc => nomatch hc⟩

end Sys2Proof.Machine
end

