-- ==== Sys2Proof/Laws/Environment.lean ====
section
/-! SUPPORT. What an edge of the clock or of chip-select can do to the device. -/

namespace Sys2Proof.Machine

/-- The only register a completed byte can change is the one it is stored in. -/
theorem Fixture.byteDone_read (f : Fixture) (out : Byte) (k : Nat) (h : f.storeAddr ≠ some k) :
    Memory.read (f.byteDone out).regs k = Memory.read f.regs k := by
  unfold Fixture.byteDone
  split
  · rfl
  · split
    · rename_i a ha
      exact Memory.read_write_other _ _ _ _ (fun hk => h (by rw [ha, hk]))
    · split
      · rfl
      · split
        · rfl
        · split <;> rfl

theorem Fixture.byteDone_wf (f : Fixture) (out : Byte) (h : Memory.wf f.regs) :
    Memory.wf (f.byteDone out).regs := by
  unfold Fixture.byteDone
  split
  · exact h
  · split
    · rename_i a ha
      refine Memory.write_wf _ _ _ h ?_
      unfold Fixture.storeAddr at ha
      split at ha
      · injection ha with ha
        rw [← ha]
        exact f.ptr.isLt
      · contradiction
    · split
      · exact h
      · split
        · exact h
        · split <;> exact h

theorem Device.rise_wf (d : Device) (b : Bool) (h : d.wf) : (d.rise b).wf := by
  cases d with
  | oracle => trivial
  | script _ => trivial
  | fixture f =>
    show Memory.wf (f.rise b).regs
    unfold Fixture.rise
    dsimp only
    split
    · exact Fixture.byteDone_wf _ _ h
    · exact h

theorem Device.select_wf (d : Device) (h : d.wf) : d.select.wf := by
  cases d <;> exact h

/-- A rising edge leaves every register but the one it stores in. -/
theorem Device.rise_peek (d : Device) (b : Bool) (k : Nat) (h : d.storeAddr ≠ some k) :
    (d.rise b).peek k = d.peek k := by
  cases d with
  | oracle => rfl
  | script _ => rfl
  | fixture f =>
    simp only [Device.rise, Device.peek, Fixture.rise]
    split
    · rename_i he
      rw [Fixture.byteDone_read]
      simpa [Device.storeAddr, he] using h
    · rfl

@[simp] theorem Device.select_peek (d : Device) (k : Nat) : d.select.peek k = d.peek k := by
  cases d <;> rfl

@[simp] theorem Device.miso_oracle (n : Nat) : Device.oracle.miso n = Config.miso n := rfl
@[simp] theorem Device.miso_undriven (n : Nat) : (Device.script []).miso n = true := rfl
@[simp] theorem Device.miso_script (b : Bool) (bs : List Bool) (n : Nat) : (Device.script (b :: bs)).miso n = b := rfl
@[simp] theorem Device.miso_fixture (f : Fixture) (n : Nat) :
    (Device.fixture f).miso n = f.answer.getMsbD f.edges := rfl

/-- The device attached at reset, and a fixture nothing has written, are in canonical form. -/
theorem State.reset_device_wf : State.reset.device.wf ∧ (Device.fixture {}).wf := ⟨trivial, Memory.nil_wf⟩

end Sys2Proof.Machine
end

