-- ==== Sys2Proof/Laws/State.lean ====
section
/-! SUPPORT. One lemma per field per update, true by unfolding, so that no later proof unfolds a record update. -/

namespace Sys2Proof.Machine

/-! ## setSclk -/

@[simp] theorem setSclk_sr (b : Bool) (s : State) : (setSclk b s).sr = s.sr := rfl
@[simp] theorem setSclk_xdone (b : Bool) (s : State) : (setSclk b s).xdone = s.xdone := rfl
@[simp] theorem setSclk_bitcnt (b : Bool) (s : State) : (setSclk b s).bitcnt = s.bitcnt := rfl
@[simp] theorem setSclk_latch (b : Bool) (s : State) : (setSclk b s).latch = s.latch := rfl
@[simp] theorem setSclk_polls (b : Bool) (s : State) : (setSclk b s).polls = s.polls := rfl
@[simp] theorem setSclk_sclk (b : Bool) (s : State) : (setSclk b s).sclk = b := rfl
@[simp] theorem setSclk_csN (b : Bool) (s : State) : (setSclk b s).csN = s.csN := rfl
@[simp] theorem setSclk_inited (b : Bool) (s : State) : (setSclk b s).inited = s.inited := rfl
@[simp] theorem setSclk_seq (b : Bool) (s : State) : (setSclk b s).seq = s.seq := rfl
@[simp] theorem setSclk_op (b : Bool) (s : State) : (setSclk b s).op = s.op := rfl
@[simp] theorem setSclk_addr (b : Bool) (s : State) : (setSclk b s).addr = s.addr := rfl
@[simp] theorem setSclk_wdata (b : Bool) (s : State) : (setSclk b s).wdata = s.wdata := rfl
@[simp] theorem setSclk_idx (b : Bool) (s : State) : (setSclk b s).idx = s.idx := rfl
@[simp] theorem setSclk_rdata (b : Bool) (s : State) : (setSclk b s).rdata = s.rdata := rfl
@[simp] theorem setSclk_err (b : Bool) (s : State) : (setSclk b s).err = s.err := rfl
@[simp] theorem setSclk_rsp (b : Bool) (s : State) : (setSclk b s).rsp = s.rsp := rfl
@[simp] theorem setSclk_sb (b : Bool) (s : State) : (setSclk b s).sb = s.sb := rfl
@[simp] theorem setSclk_srLoaded (b : Bool) (s : State) : (setSclk b s).srLoaded = s.srLoaded := rfl
@[simp] theorem setSclk_params (b : Bool) (s : State) : (setSclk b s).params = s.params := rfl
@[simp] theorem setSclk_rst (b : Bool) (s : State) : (setSclk b s).rst = s.rst := rfl
@[simp] theorem setSclk_cmds (b : Bool) (s : State) : (setSclk b s).cmds = s.cmds := rfl
@[simp] theorem setSclk_clock (b : Bool) (s : State) : (setSclk b s).clock = s.clock := rfl
@[simp] theorem setSclk_device (b : Bool) (s : State) : (setSclk b s).device = s.device := rfl
@[simp] theorem setSclk_draws (b : Bool) (s : State) : (setSclk b s).draws = s.draws := rfl
@[simp] theorem setSclk_trace (b : Bool) (s : State) : (setSclk b s).trace = s.trace ++ pinEvent s.inited s.sclk b (.sclk b) := rfl

/-! ## setCsN -/

@[simp] theorem setCsN_sr (b : Bool) (s : State) : (setCsN b s).sr = s.sr := rfl
@[simp] theorem setCsN_xdone (b : Bool) (s : State) : (setCsN b s).xdone = s.xdone := rfl
@[simp] theorem setCsN_bitcnt (b : Bool) (s : State) : (setCsN b s).bitcnt = s.bitcnt := rfl
@[simp] theorem setCsN_latch (b : Bool) (s : State) : (setCsN b s).latch = s.latch := rfl
@[simp] theorem setCsN_polls (b : Bool) (s : State) : (setCsN b s).polls = s.polls := rfl
@[simp] theorem setCsN_sclk (b : Bool) (s : State) : (setCsN b s).sclk = s.sclk := rfl
@[simp] theorem setCsN_csN (b : Bool) (s : State) : (setCsN b s).csN = b := rfl
@[simp] theorem setCsN_inited (b : Bool) (s : State) : (setCsN b s).inited = s.inited := rfl
@[simp] theorem setCsN_seq (b : Bool) (s : State) : (setCsN b s).seq = s.seq := rfl
@[simp] theorem setCsN_op (b : Bool) (s : State) : (setCsN b s).op = s.op := rfl
@[simp] theorem setCsN_addr (b : Bool) (s : State) : (setCsN b s).addr = s.addr := rfl
@[simp] theorem setCsN_wdata (b : Bool) (s : State) : (setCsN b s).wdata = s.wdata := rfl
@[simp] theorem setCsN_idx (b : Bool) (s : State) : (setCsN b s).idx = s.idx := rfl
@[simp] theorem setCsN_rdata (b : Bool) (s : State) : (setCsN b s).rdata = s.rdata := rfl
@[simp] theorem setCsN_err (b : Bool) (s : State) : (setCsN b s).err = s.err := rfl
@[simp] theorem setCsN_rsp (b : Bool) (s : State) : (setCsN b s).rsp = s.rsp := rfl
@[simp] theorem setCsN_sb (b : Bool) (s : State) : (setCsN b s).sb = s.sb := rfl
@[simp] theorem setCsN_srLoaded (b : Bool) (s : State) : (setCsN b s).srLoaded = s.srLoaded := rfl
@[simp] theorem setCsN_params (b : Bool) (s : State) : (setCsN b s).params = s.params := rfl
@[simp] theorem setCsN_rst (b : Bool) (s : State) : (setCsN b s).rst = s.rst := rfl
@[simp] theorem setCsN_cmds (b : Bool) (s : State) : (setCsN b s).cmds = s.cmds := rfl
@[simp] theorem setCsN_clock (b : Bool) (s : State) : (setCsN b s).clock = s.clock := rfl
@[simp] theorem setCsN_device (b : Bool) (s : State) : (setCsN b s).device = if s.inited && s.csN && !b then s.device.select else s.device := rfl
@[simp] theorem setCsN_draws (b : Bool) (s : State) : (setCsN b s).draws = s.draws := rfl
@[simp] theorem setCsN_trace (b : Bool) (s : State) : (setCsN b s).trace = s.trace ++ pinEvent s.inited s.csN b (.cs b) := rfl

/-! ## setSr -/

@[simp] theorem setSr_sr (v : Byte) (s : State) : (setSr v s).sr = v := rfl
@[simp] theorem setSr_xdone (v : Byte) (s : State) : (setSr v s).xdone = s.xdone := rfl
@[simp] theorem setSr_bitcnt (v : Byte) (s : State) : (setSr v s).bitcnt = s.bitcnt := rfl
@[simp] theorem setSr_latch (v : Byte) (s : State) : (setSr v s).latch = s.latch := rfl
@[simp] theorem setSr_polls (v : Byte) (s : State) : (setSr v s).polls = s.polls := rfl
@[simp] theorem setSr_sclk (v : Byte) (s : State) : (setSr v s).sclk = s.sclk := rfl
@[simp] theorem setSr_csN (v : Byte) (s : State) : (setSr v s).csN = s.csN := rfl
@[simp] theorem setSr_inited (v : Byte) (s : State) : (setSr v s).inited = s.inited := rfl
@[simp] theorem setSr_seq (v : Byte) (s : State) : (setSr v s).seq = s.seq := rfl
@[simp] theorem setSr_op (v : Byte) (s : State) : (setSr v s).op = s.op := rfl
@[simp] theorem setSr_addr (v : Byte) (s : State) : (setSr v s).addr = s.addr := rfl
@[simp] theorem setSr_wdata (v : Byte) (s : State) : (setSr v s).wdata = s.wdata := rfl
@[simp] theorem setSr_idx (v : Byte) (s : State) : (setSr v s).idx = s.idx := rfl
@[simp] theorem setSr_rdata (v : Byte) (s : State) : (setSr v s).rdata = s.rdata := rfl
@[simp] theorem setSr_err (v : Byte) (s : State) : (setSr v s).err = s.err := rfl
@[simp] theorem setSr_rsp (v : Byte) (s : State) : (setSr v s).rsp = s.rsp := rfl
@[simp] theorem setSr_sb (v : Byte) (s : State) : (setSr v s).sb = s.sb := rfl
@[simp] theorem setSr_srLoaded (v : Byte) (s : State) : (setSr v s).srLoaded = true := rfl
@[simp] theorem setSr_params (v : Byte) (s : State) : (setSr v s).params = s.params := rfl
@[simp] theorem setSr_rst (v : Byte) (s : State) : (setSr v s).rst = s.rst := rfl
@[simp] theorem setSr_cmds (v : Byte) (s : State) : (setSr v s).cmds = s.cmds := rfl
@[simp] theorem setSr_clock (v : Byte) (s : State) : (setSr v s).clock = s.clock := rfl
@[simp] theorem setSr_device (v : Byte) (s : State) : (setSr v s).device = s.device := rfl
@[simp] theorem setSr_draws (v : Byte) (s : State) : (setSr v s).draws = s.draws := rfl
@[simp] theorem setSr_trace (v : Byte) (s : State) : (setSr v s).trace = s.trace ++ pinEvent s.inited s.mosi v.msb (.mosi v.msb) := rfl

/-! ## setInited -/

@[simp] theorem setInited_sr (s : State) : (setInited s).sr = s.sr := rfl
@[simp] theorem setInited_xdone (s : State) : (setInited s).xdone = s.xdone := rfl
@[simp] theorem setInited_bitcnt (s : State) : (setInited s).bitcnt = s.bitcnt := rfl
@[simp] theorem setInited_latch (s : State) : (setInited s).latch = s.latch := rfl
@[simp] theorem setInited_polls (s : State) : (setInited s).polls = s.polls := rfl
@[simp] theorem setInited_sclk (s : State) : (setInited s).sclk = s.sclk := rfl
@[simp] theorem setInited_csN (s : State) : (setInited s).csN = s.csN := rfl
@[simp] theorem setInited_inited (s : State) : (setInited s).inited = true := rfl
@[simp] theorem setInited_seq (s : State) : (setInited s).seq = s.seq := rfl
@[simp] theorem setInited_op (s : State) : (setInited s).op = s.op := rfl
@[simp] theorem setInited_addr (s : State) : (setInited s).addr = s.addr := rfl
@[simp] theorem setInited_wdata (s : State) : (setInited s).wdata = s.wdata := rfl
@[simp] theorem setInited_idx (s : State) : (setInited s).idx = s.idx := rfl
@[simp] theorem setInited_rdata (s : State) : (setInited s).rdata = s.rdata := rfl
@[simp] theorem setInited_err (s : State) : (setInited s).err = s.err := rfl
@[simp] theorem setInited_rsp (s : State) : (setInited s).rsp = s.rsp := rfl
@[simp] theorem setInited_sb (s : State) : (setInited s).sb = s.sb := rfl
@[simp] theorem setInited_srLoaded (s : State) : (setInited s).srLoaded = s.srLoaded := rfl
@[simp] theorem setInited_params (s : State) : (setInited s).params = s.params := rfl
@[simp] theorem setInited_rst (s : State) : (setInited s).rst = s.rst := rfl
@[simp] theorem setInited_cmds (s : State) : (setInited s).cmds = s.cmds := rfl
@[simp] theorem setInited_clock (s : State) : (setInited s).clock = s.clock := rfl
@[simp] theorem setInited_device (s : State) : (setInited s).device = s.device := rfl
@[simp] theorem setInited_draws (s : State) : (setInited s).draws = s.draws := rfl
@[simp] theorem setInited_trace (s : State) : (setInited s).trace = s.trace ++ pinEvent true s.inited true (.oe true) := rfl

/-! ## quiet -/

@[simp] theorem quiet_sr (s : State) : (quiet s).sr = s.sr := rfl
@[simp] theorem quiet_xdone (s : State) : (quiet s).xdone = s.xdone := rfl
@[simp] theorem quiet_bitcnt (s : State) : (quiet s).bitcnt = s.bitcnt := rfl
@[simp] theorem quiet_latch (s : State) : (quiet s).latch = s.latch := rfl
@[simp] theorem quiet_polls (s : State) : (quiet s).polls = s.polls := rfl
@[simp] theorem quiet_sclk (s : State) : (quiet s).sclk = s.sclk := rfl
@[simp] theorem quiet_csN (s : State) : (quiet s).csN = s.csN := rfl
@[simp] theorem quiet_inited (s : State) : (quiet s).inited = s.inited := rfl
@[simp] theorem quiet_seq (s : State) : (quiet s).seq = s.seq := rfl
@[simp] theorem quiet_op (s : State) : (quiet s).op = s.op := rfl
@[simp] theorem quiet_addr (s : State) : (quiet s).addr = s.addr := rfl
@[simp] theorem quiet_wdata (s : State) : (quiet s).wdata = s.wdata := rfl
@[simp] theorem quiet_idx (s : State) : (quiet s).idx = s.idx := rfl
@[simp] theorem quiet_rdata (s : State) : (quiet s).rdata = s.rdata := rfl
@[simp] theorem quiet_err (s : State) : (quiet s).err = s.err := rfl
@[simp] theorem quiet_rsp (s : State) : (quiet s).rsp = none := rfl
@[simp] theorem quiet_sb (s : State) : (quiet s).sb = none := rfl
@[simp] theorem quiet_srLoaded (s : State) : (quiet s).srLoaded = s.srLoaded := rfl
@[simp] theorem quiet_params (s : State) : (quiet s).params = s.params := rfl
@[simp] theorem quiet_rst (s : State) : (quiet s).rst = s.rst := rfl
@[simp] theorem quiet_cmds (s : State) : (quiet s).cmds = s.cmds := rfl
@[simp] theorem quiet_clock (s : State) : (quiet s).clock = s.clock := rfl
@[simp] theorem quiet_device (s : State) : (quiet s).device = s.device := rfl
@[simp] theorem quiet_draws (s : State) : (quiet s).draws = s.draws := rfl
@[simp] theorem quiet_trace (s : State) : (quiet s).trace = s.trace := rfl

/-! ## pulse -/

@[simp] theorem pulse_sr (s : State) : (pulse s).sr = s.sr.shiftConcat s.pinMiso := rfl
@[simp] theorem pulse_xdone (s : State) : (pulse s).xdone = (s.xdone || transferComplete (s.bitcnt + 1#4)) := rfl
@[simp] theorem pulse_bitcnt (s : State) : (pulse s).bitcnt = s.bitcnt + 1#4 := rfl
@[simp] theorem pulse_latch (s : State) : (pulse s).latch = s.pinMiso := rfl
@[simp] theorem pulse_polls (s : State) : (pulse s).polls = s.polls := rfl
@[simp] theorem pulse_sclk (s : State) : (pulse s).sclk = false := rfl
@[simp] theorem pulse_csN (s : State) : (pulse s).csN = s.csN := rfl
@[simp] theorem pulse_inited (s : State) : (pulse s).inited = s.inited := rfl
@[simp] theorem pulse_seq (s : State) : (pulse s).seq = s.seq := rfl
@[simp] theorem pulse_op (s : State) : (pulse s).op = s.op := rfl
@[simp] theorem pulse_addr (s : State) : (pulse s).addr = s.addr := rfl
@[simp] theorem pulse_wdata (s : State) : (pulse s).wdata = s.wdata := rfl
@[simp] theorem pulse_idx (s : State) : (pulse s).idx = s.idx := rfl
@[simp] theorem pulse_rdata (s : State) : (pulse s).rdata = s.rdata := rfl
@[simp] theorem pulse_err (s : State) : (pulse s).err = s.err := rfl
@[simp] theorem pulse_rsp (s : State) : (pulse s).rsp = s.rsp := rfl
@[simp] theorem pulse_sb (s : State) : (pulse s).sb = s.sb := rfl
@[simp] theorem pulse_srLoaded (s : State) : (pulse s).srLoaded = true := rfl
@[simp] theorem pulse_params (s : State) : (pulse s).params = s.params := rfl
@[simp] theorem pulse_rst (s : State) : (pulse s).rst = s.rst := rfl
@[simp] theorem pulse_cmds (s : State) : (pulse s).cmds = s.cmds := rfl
@[simp] theorem pulse_clock (s : State) : (pulse s).clock = s.clock := rfl
@[simp] theorem pulse_device (s : State) : (pulse s).device = s.device.rise s.mosi := rfl
@[simp] theorem pulse_draws (s : State) : (pulse s).draws = s.draws := rfl

/-! ## xferLoad -/

@[simp] theorem xferLoad_sr (b : Byte) (s : State) : (xferLoad b s).sr = b := rfl
@[simp] theorem xferLoad_xdone (b : Byte) (s : State) : (xferLoad b s).xdone = false := rfl
@[simp] theorem xferLoad_bitcnt (b : Byte) (s : State) : (xferLoad b s).bitcnt = 0#4 := rfl
@[simp] theorem xferLoad_latch (b : Byte) (s : State) : (xferLoad b s).latch = s.latch := rfl
@[simp] theorem xferLoad_polls (b : Byte) (s : State) : (xferLoad b s).polls = freshPolls s.params := rfl
@[simp] theorem xferLoad_sclk (b : Byte) (s : State) : (xferLoad b s).sclk = s.sclk := rfl
@[simp] theorem xferLoad_csN (b : Byte) (s : State) : (xferLoad b s).csN = s.csN := rfl
@[simp] theorem xferLoad_inited (b : Byte) (s : State) : (xferLoad b s).inited = s.inited := rfl
@[simp] theorem xferLoad_seq (b : Byte) (s : State) : (xferLoad b s).seq = .shift := rfl
@[simp] theorem xferLoad_op (b : Byte) (s : State) : (xferLoad b s).op = s.op := rfl
@[simp] theorem xferLoad_addr (b : Byte) (s : State) : (xferLoad b s).addr = s.addr := rfl
@[simp] theorem xferLoad_wdata (b : Byte) (s : State) : (xferLoad b s).wdata = s.wdata := rfl
@[simp] theorem xferLoad_idx (b : Byte) (s : State) : (xferLoad b s).idx = s.idx := rfl
@[simp] theorem xferLoad_rdata (b : Byte) (s : State) : (xferLoad b s).rdata = s.rdata := rfl
@[simp] theorem xferLoad_err (b : Byte) (s : State) : (xferLoad b s).err = s.err := rfl
@[simp] theorem xferLoad_rsp (b : Byte) (s : State) : (xferLoad b s).rsp = s.rsp := rfl
@[simp] theorem xferLoad_sb (b : Byte) (s : State) : (xferLoad b s).sb = s.sb := rfl
@[simp] theorem xferLoad_srLoaded (b : Byte) (s : State) : (xferLoad b s).srLoaded = true := rfl
@[simp] theorem xferLoad_params (b : Byte) (s : State) : (xferLoad b s).params = s.params := rfl
@[simp] theorem xferLoad_rst (b : Byte) (s : State) : (xferLoad b s).rst = s.rst := rfl
@[simp] theorem xferLoad_cmds (b : Byte) (s : State) : (xferLoad b s).cmds = s.cmds := rfl
@[simp] theorem xferLoad_clock (b : Byte) (s : State) : (xferLoad b s).clock = s.clock := rfl
@[simp] theorem xferLoad_device (b : Byte) (s : State) : (xferLoad b s).device = s.device := rfl
@[simp] theorem xferLoad_draws (b : Byte) (s : State) : (xferLoad b s).draws = s.draws := rfl
@[simp] theorem xferLoad_trace (b : Byte) (s : State) : (xferLoad b s).trace = s.trace ++ pinEvent s.inited s.mosi b.msb (.mosi b.msb) := rfl

/-! ## select -/

@[simp] theorem select_sr (s : State) : (select s).sr = s.sr := rfl
@[simp] theorem select_xdone (s : State) : (select s).xdone = s.xdone := rfl
@[simp] theorem select_bitcnt (s : State) : (select s).bitcnt = s.bitcnt := rfl
@[simp] theorem select_latch (s : State) : (select s).latch = s.latch := rfl
@[simp] theorem select_polls (s : State) : (select s).polls = s.polls := rfl
@[simp] theorem select_sclk (s : State) : (select s).sclk = s.sclk := rfl
@[simp] theorem select_csN (s : State) : (select s).csN = false := rfl
@[simp] theorem select_inited (s : State) : (select s).inited = s.inited := rfl
@[simp] theorem select_seq (s : State) : (select s).seq = .load := rfl
@[simp] theorem select_op (s : State) : (select s).op = s.op := rfl
@[simp] theorem select_addr (s : State) : (select s).addr = s.addr := rfl
@[simp] theorem select_wdata (s : State) : (select s).wdata = s.wdata := rfl
@[simp] theorem select_idx (s : State) : (select s).idx = 0#17 := rfl
@[simp] theorem select_rdata (s : State) : (select s).rdata = s.rdata := rfl
@[simp] theorem select_err (s : State) : (select s).err = s.err := rfl
@[simp] theorem select_rsp (s : State) : (select s).rsp = s.rsp := rfl
@[simp] theorem select_sb (s : State) : (select s).sb = s.sb := rfl
@[simp] theorem select_srLoaded (s : State) : (select s).srLoaded = s.srLoaded := rfl
@[simp] theorem select_params (s : State) : (select s).params = s.params := rfl
@[simp] theorem select_rst (s : State) : (select s).rst = s.rst := rfl
@[simp] theorem select_cmds (s : State) : (select s).cmds = s.cmds := rfl
@[simp] theorem select_clock (s : State) : (select s).clock = s.clock := rfl
@[simp] theorem select_device (s : State) : (select s).device = if s.inited && s.csN && !false then s.device.select else s.device := rfl
@[simp] theorem select_draws (s : State) : (select s).draws = s.draws := rfl
@[simp] theorem select_trace (s : State) : (select s).trace = s.trace ++ pinEvent s.inited s.csN false (.cs false) := rfl

/-! ## deselect -/

@[simp] theorem deselect_sr (s : State) : (deselect s).sr = s.sr := rfl
@[simp] theorem deselect_xdone (s : State) : (deselect s).xdone = s.xdone := rfl
@[simp] theorem deselect_bitcnt (s : State) : (deselect s).bitcnt = s.bitcnt := rfl
@[simp] theorem deselect_latch (s : State) : (deselect s).latch = s.latch := rfl
@[simp] theorem deselect_polls (s : State) : (deselect s).polls = s.polls := rfl
@[simp] theorem deselect_sclk (s : State) : (deselect s).sclk = s.sclk := rfl
@[simp] theorem deselect_csN (s : State) : (deselect s).csN = true := rfl
@[simp] theorem deselect_inited (s : State) : (deselect s).inited = s.inited := rfl
@[simp] theorem deselect_seq (s : State) : (deselect s).seq = .resp := rfl
@[simp] theorem deselect_op (s : State) : (deselect s).op = s.op := rfl
@[simp] theorem deselect_addr (s : State) : (deselect s).addr = s.addr := rfl
@[simp] theorem deselect_wdata (s : State) : (deselect s).wdata = s.wdata := rfl
@[simp] theorem deselect_idx (s : State) : (deselect s).idx = s.idx := rfl
@[simp] theorem deselect_rdata (s : State) : (deselect s).rdata = s.rdata := rfl
@[simp] theorem deselect_err (s : State) : (deselect s).err = s.err := rfl
@[simp] theorem deselect_rsp (s : State) : (deselect s).rsp = s.rsp := rfl
@[simp] theorem deselect_sb (s : State) : (deselect s).sb = s.sb := rfl
@[simp] theorem deselect_srLoaded (s : State) : (deselect s).srLoaded = s.srLoaded := rfl
@[simp] theorem deselect_params (s : State) : (deselect s).params = s.params := rfl
@[simp] theorem deselect_rst (s : State) : (deselect s).rst = s.rst := rfl
@[simp] theorem deselect_cmds (s : State) : (deselect s).cmds = s.cmds := rfl
@[simp] theorem deselect_clock (s : State) : (deselect s).clock = s.clock := rfl
@[simp] theorem deselect_device (s : State) : (deselect s).device = if s.inited && s.csN && !true then s.device.select else s.device := rfl
@[simp] theorem deselect_draws (s : State) : (deselect s).draws = s.draws := rfl
@[simp] theorem deselect_trace (s : State) : (deselect s).trace = s.trace ++ pinEvent s.inited s.csN true (.cs true) := rfl

/-! ## raise -/

@[simp] theorem raise_sr (f : BusFault) (s : State) : (raise f s).sr = s.sr := rfl
@[simp] theorem raise_xdone (f : BusFault) (s : State) : (raise f s).xdone = s.xdone := rfl
@[simp] theorem raise_bitcnt (f : BusFault) (s : State) : (raise f s).bitcnt = s.bitcnt := rfl
@[simp] theorem raise_latch (f : BusFault) (s : State) : (raise f s).latch = s.latch := rfl
@[simp] theorem raise_polls (f : BusFault) (s : State) : (raise f s).polls = s.polls := rfl
@[simp] theorem raise_sclk (f : BusFault) (s : State) : (raise f s).sclk = false := rfl
@[simp] theorem raise_csN (f : BusFault) (s : State) : (raise f s).csN = true := rfl
@[simp] theorem raise_inited (f : BusFault) (s : State) : (raise f s).inited = s.inited := rfl
@[simp] theorem raise_seq (f : BusFault) (s : State) : (raise f s).seq = .fault := rfl
@[simp] theorem raise_op (f : BusFault) (s : State) : (raise f s).op = s.op := rfl
@[simp] theorem raise_addr (f : BusFault) (s : State) : (raise f s).addr = s.addr := rfl
@[simp] theorem raise_wdata (f : BusFault) (s : State) : (raise f s).wdata = s.wdata := rfl
@[simp] theorem raise_idx (f : BusFault) (s : State) : (raise f s).idx = s.idx := rfl
@[simp] theorem raise_rdata (f : BusFault) (s : State) : (raise f s).rdata = s.rdata := rfl
@[simp] theorem raise_err (f : BusFault) (s : State) : (raise f s).err = f.code := rfl
@[simp] theorem raise_rsp (f : BusFault) (s : State) : (raise f s).rsp = some (.fault f.code) := rfl
@[simp] theorem raise_sb (f : BusFault) (s : State) : (raise f s).sb = s.sb := rfl
@[simp] theorem raise_srLoaded (f : BusFault) (s : State) : (raise f s).srLoaded = s.srLoaded := rfl
@[simp] theorem raise_params (f : BusFault) (s : State) : (raise f s).params = s.params := rfl
@[simp] theorem raise_rst (f : BusFault) (s : State) : (raise f s).rst = s.rst := rfl
@[simp] theorem raise_cmds (f : BusFault) (s : State) : (raise f s).cmds = s.cmds := rfl
@[simp] theorem raise_clock (f : BusFault) (s : State) : (raise f s).clock = s.clock := rfl
@[simp] theorem raise_device (f : BusFault) (s : State) : (raise f s).device = if s.inited && s.csN && !true then s.device.select else s.device := rfl
@[simp] theorem raise_draws (f : BusFault) (s : State) : (raise f s).draws = s.draws := rfl

/-! ## respond -/

@[simp] theorem respond_sr (c : Command) (s : State) : (respond c s).sr = s.sr := rfl
@[simp] theorem respond_xdone (c : Command) (s : State) : (respond c s).xdone = s.xdone := rfl
@[simp] theorem respond_bitcnt (c : Command) (s : State) : (respond c s).bitcnt = s.bitcnt := rfl
@[simp] theorem respond_latch (c : Command) (s : State) : (respond c s).latch = s.latch := rfl
@[simp] theorem respond_polls (c : Command) (s : State) : (respond c s).polls = s.polls := rfl
@[simp] theorem respond_sclk (c : Command) (s : State) : (respond c s).sclk = s.sclk := rfl
@[simp] theorem respond_csN (c : Command) (s : State) : (respond c s).csN = s.csN := rfl
@[simp] theorem respond_inited (c : Command) (s : State) : (respond c s).inited = s.inited := rfl
@[simp] theorem respond_seq (c : Command) (s : State) : (respond c s).seq = .idle := rfl
@[simp] theorem respond_op (c : Command) (s : State) : (respond c s).op = s.op := rfl
@[simp] theorem respond_addr (c : Command) (s : State) : (respond c s).addr = s.addr := rfl
@[simp] theorem respond_wdata (c : Command) (s : State) : (respond c s).wdata = s.wdata := rfl
@[simp] theorem respond_idx (c : Command) (s : State) : (respond c s).idx = s.idx := rfl
@[simp] theorem respond_rdata (c : Command) (s : State) : (respond c s).rdata = s.rdata := rfl
@[simp] theorem respond_err (c : Command) (s : State) : (respond c s).err = s.err := rfl
@[simp] theorem respond_rsp (c : Command) (s : State) : (respond c s).rsp = some (response c s) := rfl
@[simp] theorem respond_sb (c : Command) (s : State) : (respond c s).sb = s.sb := rfl
@[simp] theorem respond_srLoaded (c : Command) (s : State) : (respond c s).srLoaded = s.srLoaded := rfl
@[simp] theorem respond_params (c : Command) (s : State) : (respond c s).params = s.params := rfl
@[simp] theorem respond_rst (c : Command) (s : State) : (respond c s).rst = s.rst := rfl
@[simp] theorem respond_cmds (c : Command) (s : State) : (respond c s).cmds = s.cmds := rfl
@[simp] theorem respond_clock (c : Command) (s : State) : (respond c s).clock = s.clock := rfl
@[simp] theorem respond_device (c : Command) (s : State) : (respond c s).device = s.device := rfl
@[simp] theorem respond_draws (c : Command) (s : State) : (respond c s).draws = s.draws := rfl
@[simp] theorem respond_trace (c : Command) (s : State) : (respond c s).trace = s.trace ++ [.respond (response c s)] := rfl

end Sys2Proof.Machine
end

