-- ==== Sys2Proof/Laws/Exec.lean ====
section
/-! SUPPORT. What a step can do, said once: exec of any command is one engine step of its wire behaviour, and a step is
reset, waiting, a fault at acceptance, or exec of one command. -/

namespace Sys2Proof.Machine

/-- Every meaning is one engine step of the command's wire behaviour. -/
theorem exec_eq (i : Instr) (s : State) :
    exec i s = commandStep (acceptOf i) (commandOf i s.params.dummy) s := by
  cases i <;> rfl

/-! ## exec, phase by phase -/

variable {i : Instr} {s : State}

theorem exec_idle (h : s.seq = .idle) : exec i s = .next (acceptOf i s) := by
  simp [exec_eq, commandStep, h]

theorem exec_sel (h : s.seq = .sel) : exec i s = .next (select s) := by
  simp [exec_eq, commandStep, h]

theorem exec_load {b : Byte} (h : s.seq = .load) (hb : (frameOf i s.params.dummy)[s.idx.toNat]? = some b) :
    exec i s = .next (xferLoad b s) := by
  have hb' : (commandOf i s.params.dummy).frame[s.idx.toNat]? = some b := hb
  simp [exec_eq, commandStep, h, hb']

theorem exec_load_none (h : s.seq = .load) (hb : (frameOf i s.params.dummy)[s.idx.toNat]? = none) :
    exec i s = .fault .noFrameByte := by
  have hb' : (commandOf i s.params.dummy).frame[s.idx.toNat]? = none := hb
  simp only [exec_eq, commandStep, h, hb']

theorem exec_poll (h : s.seq = .shift) (hx : s.xdone = false) : exec i s = .next (xferPoll s) := by
  simp [exec_eq, commandStep, h, hx]

theorem exec_collect (h : s.seq = .shift) (hx : s.xdone = true) :
    exec i s = .next (xferCollect (commandOf i s.params.dummy) s) := by
  simp [exec_eq, commandStep, h, hx]

theorem exec_desel (h : s.seq = .desel) : exec i s = .next (deselect s) := by
  simp [exec_eq, commandStep, h]

theorem exec_resp (h : s.seq = .resp) : exec i s = .next (respond (commandOf i s.params.dummy) s) := by
  simp [exec_eq, commandStep, h]

theorem exec_fault (h : s.seq = .fault) : exec i s = .next s := by
  simp [exec_eq, commandStep, h]

/-- Everything exec can answer with a next state. -/
theorem exec_next {t : State} (h : exec i s = .next t) :
    (s.seq = .idle ∧ t = acceptOf i s) ∨ (s.seq = .sel ∧ t = select s) ∨
    (s.seq = .load ∧ ∃ b, (frameOf i s.params.dummy)[s.idx.toNat]? = some b ∧ t = xferLoad b s) ∨
    (s.seq = .shift ∧ s.xdone = false ∧ t = xferPoll s) ∨
    (s.seq = .shift ∧ s.xdone = true ∧ t = xferCollect (commandOf i s.params.dummy) s) ∨
    (s.seq = .desel ∧ t = deselect s) ∨
    (s.seq = .resp ∧ t = respond (commandOf i s.params.dummy) s) ∨ (s.seq = .fault ∧ t = s) := by
  cases hs : s.seq with
  | idle => rw [exec_idle hs] at h; injection h with h; simp [h]
  | sel => rw [exec_sel hs] at h; injection h with h; simp [h]
  | load =>
    cases hb : (frameOf i s.params.dummy)[s.idx.toNat]? with
    | none => rw [exec_load_none hs hb] at h; cases h
    | some b => rw [exec_load hs hb] at h; injection h with h; simp [h]
  | shift =>
    cases hx : s.xdone with
    | false => rw [exec_poll hs hx] at h; injection h with h; simp [h]
    | true => rw [exec_collect hs hx] at h; injection h with h; simp [h]
  | desel => rw [exec_desel hs] at h; injection h with h; simp [h]
  | resp => rw [exec_resp hs] at h; injection h with h; simp [h]
  | fault => rw [exec_fault hs] at h; injection h with h; simp [h]

/-! ## The two operations with more than one case -/

/-- A poll with no fault due is a pulse or a stall; one with a fault due is the Timeout fault. -/
theorem xferPoll_cases (s : State) :
    (s.params.timeout = some s.pollCount ∧ xferPoll s = raise .timeout s) ∨
    (s.params.timeout ≠ some s.pollCount ∧
      xferPoll s = pollClock { s with
        polls := if s.params.timeout = none then s.polls else s.polls.map (PollCounter.plus 1) }) := by
  unfold xferPoll
  cases h : s.params.timeout with
  | none => exact .inr ⟨by simp, by simp⟩
  | some t =>
    by_cases hp : s.pollCount = t
    · exact .inl ⟨by rw [hp], by simp [hp]⟩
    · exact .inr ⟨fun e => hp (by injection e with e; exact e.symm), by simp [hp, countPoll]⟩

/-- Acceptance of a command other than INIT latches it, or raises NotInit. -/
theorem acceptOf_cases (i : Instr) (s : State) :
    (i.opcode = 0x0#4 ∧ acceptOf i s = acceptInit s) ∨
    (i.opcode ≠ 0x0#4 ∧ s.inited = true ∧
      acceptOf i s = { s with op := i.opcode, addr := i.addr, wdata := i.data, seq := .sel }) ∨
    (i.opcode ≠ 0x0#4 ∧ s.inited = false ∧ acceptOf i s = raise .notInit s) := by
  cases hi : s.inited <;> cases i <;> simp [Instr.opcode, acceptOf, acceptCommand, hi]

/-! ## The step -/

theorem step_reset (hc : s.params.wellFormed = true) (h : 0 < s.rst) : step s = .next (applyReset s) := by
  simp [step, fetch, hc, h]

theorem step_idle_run {w : Word} {ws : List Word} (hc : s.params.wellFormed = true) (hr : s.rst = 0)
    (h : s.seq = .idle) (hw : s.cmds = w :: ws) (hd : decodeWord w = .ok i) :
    step s = exec i { quiet s with cmds := ws } := by
  simp [step, fetch, hc, hr, h, hw, hd]

theorem step_idle_illegal {w : Word} {ws : List Word} {e : DecodeError} (hc : s.params.wellFormed = true)
    (hr : s.rst = 0) (h : s.seq = .idle) (hw : s.cmds = w :: ws) (hd : decodeWord w = .error e) :
    step s = .next (raise .illegalOp { quiet s with cmds := ws }) := by
  simp [step, fetch, hc, hr, h, hw, hd]

theorem step_idle_wait (hc : s.params.wellFormed = true) (hr : s.rst = 0) (h : s.seq = .idle) (hw : s.cmds = []) :
    step s = .next (quiet s) := by
  simp [step, fetch, hc, hr, h, hw]

theorem step_fault (hc : s.params.wellFormed = true) (hr : s.rst = 0) (h : s.seq = .fault) :
    step s = .next (quiet s) := by
  simp [step, fetch, hc, hr, h]

theorem step_busy (hc : s.params.wellFormed = true) (hr : s.rst = 0) (h : s.stBusy = true)
    (hi : s.inFlight = some i) : step s = exec i (quiet s) := by
  cases hs : s.seq <;> simp_all [step, fetch, State.stBusy]

/-- Everything a step can answer with a next state. -/
theorem step_next {t : State} (h : step s = .next t) :
    s.params.wellFormed = true ∧
    ((0 < s.rst ∧ t = applyReset s) ∨
    (s.rst = 0 ∧
      ((s.seq = .fault ∧ t = quiet s) ∨
      (s.seq = .idle ∧ s.cmds = [] ∧ t = quiet s) ∨
      (s.seq = .idle ∧ ∃ w ws, s.cmds = w :: ws ∧
        ((∃ e, decodeWord w = .error e ∧ t = raise .illegalOp { quiet s with cmds := ws }) ∨
        ∃ i, decodeWord w = .ok i ∧ t = acceptOf i { quiet s with cmds := ws })) ∨
      (s.stBusy = true ∧ ∃ i, s.inFlight = some i ∧ exec i (quiet s) = .next t)))) := by
  cases hc : s.params.wellFormed with
  | false => simp [step, fetch, hc] at h
  | true =>
    refine ⟨rfl, ?_⟩
    rcases Nat.eq_zero_or_pos s.rst with hr | hr
    · refine .inr ⟨hr, ?_⟩
      by_cases hb : s.stBusy = true
      · refine .inr (.inr (.inr ⟨hb, ?_⟩))
        cases hi : s.inFlight with
        | none => cases hs : s.seq <;> simp_all [step, fetch, State.stBusy]
        | some i => exact ⟨i, rfl, by rw [← step_busy hc hr hb hi]; exact h⟩
      · cases hs : s.seq <;> simp [State.stBusy, hs] at hb
        · cases hw : s.cmds with
          | nil =>
            rw [step_idle_wait hc hr hs hw] at h
            injection h with h
            exact .inr (.inl ⟨rfl, rfl, h.symm⟩)
          | cons w ws =>
            refine .inr (.inr (.inl ⟨rfl, w, ws, rfl, ?_⟩))
            cases hd : decodeWord w with
            | error e =>
              rw [step_idle_illegal hc hr hs hw hd] at h
              injection h with h
              exact .inl ⟨e, rfl, h.symm⟩
            | ok i =>
              rw [step_idle_run hc hr hs hw hd, exec_idle (s := { quiet s with cmds := ws }) hs] at h
              injection h with h
              exact .inr ⟨i, rfl, h.symm⟩
        · rw [step_fault hc hr hs] at h
          injection h with h
          exact .inl ⟨rfl, h.symm⟩
    · rw [step_reset hc hr] at h
      injection h with h
      exact .inl ⟨hr, h.symm⟩

/-! ## Runs -/

theorem runFor_succ_of_next {n : Nat} {t : State} (h : step s = .next t) : runFor (n + 1) s = runFor n t := by
  simp [runFor, h]

theorem runFor_add {m n : Nat} {t : State} (h : runFor m s = .next t) : runFor (m + n) s = runFor n t := by
  induction m generalizing s with
  | zero => simp only [runFor] at h; injection h with h; subst h; simp
  | succ m ih =>
    rw [Nat.succ_add]
    simp only [runFor] at h ⊢
    split at h
    · exact ih h
    · cases h
    · cases h

end Sys2Proof.Machine
end

