-- ==== Sys2Proof/Laws/PerInstr.lean ====
section
/-! SUPPORT. Facts about every command as syntax, one lemma per constructor: what the four fields of its command word are
(30_encoding.md R60, R61). -/

namespace Sys2Proof.Laws.EncodingFields

/-- Opcode, zero, address and data stand in their places of the command word. -/
def Statement (i : Instr) : Prop :=
  (encode i).extractLsb' 28 4 = i.opcode ∧ (encode i).extractLsb' 24 4 = 0#4 ∧
    (encode i).extractLsb' 16 8 = i.addr ∧ (encode i).extractLsb' 0 16 = i.data

/-- The four fields of a word put together from them. -/
theorem word_fields (op rsv : BitVec 4) (a : Byte) (d : Half) :
    (op ++ rsv ++ a ++ d : Word).extractLsb' 28 4 = op ∧ (op ++ rsv ++ a ++ d : Word).extractLsb' 24 4 = rsv ∧
      (op ++ rsv ++ a ++ d : Word).extractLsb' 16 8 = a ∧ (op ++ rsv ++ a ++ d : Word).extractLsb' 0 16 = d := by
  refine ⟨?_, ?_, ?_, ?_⟩ <;> apply BitVec.eq_of_getLsbD_eq <;> intro k hk <;>
    simp only [BitVec.getLsbD_append, BitVec.getLsbD_extractLsb', hk]
  · have h1 : ¬ 28 + k < 16 := by omega
    have h2 : ¬ 28 + k - 16 < 8 := by omega
    have h3 : ¬ 28 + k - 16 - 8 < 4 := by omega
    have h4 : 28 + k - 16 - 8 - 4 = k := by omega
    simp [h1, h2, h3, h4]
  · have h1 : ¬ 24 + k < 16 := by omega
    have h2 : ¬ 24 + k - 16 < 8 := by omega
    have h3 : 24 + k - 16 - 8 = k := by omega
    simp [h1, h2, h3]
    omega
  · have h1 : ¬ 16 + k < 16 := by omega
    have h2 : 16 + k - 16 = k := by omega
    simp [h1, h2]
    omega
  · simp [hk]

theorem init (addr : Byte) (data : Half) : Statement (.init addr data) := word_fields _ _ _ _

theorem wr8 (addr : Byte) (data : Half) : Statement (.wr8 addr data) := word_fields _ _ _ _

theorem wr16 (addr : Byte) (data : Half) : Statement (.wr16 addr data) := word_fields _ _ _ _

theorem rd8 (addr : Byte) (data : Half) : Statement (.rd8 addr data) := word_fields _ _ _ _

theorem rd16 (addr : Byte) (data : Half) : Statement (.rd16 addr data) := word_fields _ _ _ _

theorem rdfifo (addr : Byte) (data : Half) : Statement (.rdfifo addr data) := word_fields _ _ _ _

theorem rdburst (addr : Byte) (data : Half) : Statement (.rdburst addr data) := word_fields _ _ _ _

end Sys2Proof.Laws.EncodingFields
end

