-- ==== Sys2Proof/Laws/Transfer.lean ====
section
/-! SUPPORT. Several polls in a row, said once: what a run of pulses does to the shift register, the device and the trace.
Claims about transfers, frames and commands are assembled from it. -/

namespace Sys2Proof.Machine

/-- Shift bits into a byte, the first one first. -/
def shiftAll (b : Byte) (ms : List Bool) : Byte := ms.foldl (fun x m => x.shiftConcat m) b

/-- What the device answers at the next `k` rising edges while `sr` is shifted out, and what becomes of it; `n` polls were
made before. -/
def listen (d : Device) (n : Nat) (sr : Byte) : Nat → List Bool × Device
  | 0 => ([], d)
  | k + 1 =>
    let m := d.miso (n + 1)
    let r := listen (d.rise sr.msb) (n + 1) (sr.shiftConcat m) k
    (m :: r.1, r.2)

/-- The events of one bit cell (40_shift_engine.md R82, R83). -/
def cell (sr : Byte) (m : Bool) : List Event :=
  [.sclk true, .sample sr.msb m, .sclk false] ++
    pinEvent true sr.msb (sr.shiftConcat m).msb (.mosi (sr.shiftConcat m).msb)

/-- The events of the bit cells that sample these bits. -/
def cells (sr : Byte) : List Bool → List Event
  | [] => []
  | m :: ms => cell sr m ++ cells (sr.shiftConcat m) ms

theorem listen_length (d : Device) (n : Nat) (sr : Byte) (k : Nat) : (listen d n sr k).1.length = k := by
  induction k generalizing d n sr with
  | zero => rfl
  | succ k ih => simp [listen, ih]

/-- A pulse of a driven, loaded block at rest appends one bit cell to the trace. -/
theorem pulse_trace {s : State} (hi : s.inited = true) (hl : s.srLoaded = true) (hc : s.sclk = false) :
    (pulse s).trace = s.trace ++ cell s.sr (s.device.miso s.draws) := by
  simp [pulse, shiftIn, setSr, setSclk, sampleMiso, State.mosi, State.pinMiso, State.pullUp, pinEvent, cell, hi, hl, hc]

/-- What holds between two polls of a transfer: SEQ is SHIFT, the pins are driven and at rest, nothing interrupts. -/
structure Polling (s : State) : Prop where
  shifting : s.seq = .shift
  released : s.rst = 0
  configured : s.params.wellFormed = true
  latched : s.inFlight.isSome = true
  driven : s.inited = true
  loaded : s.srLoaded = true
  rest : s.sclk = false

/-- The state after `k` pulses in a row: `ms` are the bits sampled. -/
def afterPulses (s : State) (k : Nat) : State :=
  let r := listen s.device s.draws s.sr k
  { s with
    sr := shiftAll s.sr r.1
    srLoaded := true
    latch := r.1.getLastD s.latch
    bitcnt := s.bitcnt + BitVec.ofNat 4 k
    xdone := s.bitcnt.toNat + k == 8
    polls := if s.params.timeout = none then s.polls else s.polls.map (PollCounter.plus k)
    device := r.2
    draws := s.draws + k
    trace := s.trace ++ cells s.sr r.1
    rsp := none
    sb := none }

/-- One poll that pulses. -/
theorem step_pulse {s : State} (h : Polling s) (hx : s.xdone = false) (ht : s.params.timeout ≠ some s.pollCount)
    (ha : s.clock.answer s.draws = true) :
    step s = .next (pulse { quiet s with
      polls := if s.params.timeout = none then s.polls else s.polls.map (PollCounter.plus 1)
      clock := s.clock.advance, draws := s.draws + 1 }) := by
  obtain ⟨i, hi⟩ := Option.isSome_iff_exists.mp h.latched
  rw [step_busy h.configured h.released (by simp [State.stBusy, h.shifting]) hi,
    exec_poll (s := quiet s) h.shifting hx]
  rcases xferPoll_cases (quiet s) with ⟨e, -⟩ | ⟨-, e⟩
  · exact absurd e ht
  · rw [e]
    simp [pollClock, ha]
    rfl

/-- One poll that stalls. -/
theorem step_stall {s : State} (h : Polling s) (hx : s.xdone = false) (ht : s.params.timeout ≠ some s.pollCount)
    (ha : s.clock.answer s.draws = false) :
    step s = .next { quiet s with
      polls := if s.params.timeout = none then s.polls else s.polls.map (PollCounter.plus 1)
      clock := s.clock.advance, draws := s.draws + 1 } := by
  obtain ⟨i, hi⟩ := Option.isSome_iff_exists.mp h.latched
  rw [step_busy h.configured h.released (by simp [State.stBusy, h.shifting]) hi,
    exec_poll (s := quiet s) h.shifting hx]
  rcases xferPoll_cases (quiet s) with ⟨e, -⟩ | ⟨-, e⟩
  · exact absurd e ht
  · rw [e]
    simp [pollClock, ha]
    rfl

/-- Polls of a clock source that does not stall: `k` steps are `k` pulses, while no more than 8 are due and no Timeout is. -/
theorem runFor_pulses {s : State} (k : Nat) (h : Polling s) (hx : s.xdone = (s.bitcnt.toNat == 8))
    (hb : s.bitcnt.toNat + k ≤ 8) (hk : 0 < k) (ht : ∀ n, s.params.timeout = some n → s.pollCount + k ≤ n)
    (hc : s.clock = .script [] true) : runFor k s = .next (afterPulses s k) := by
  induction k generalizing s with
  | zero => omega
  | succ k ih =>
    have hx' : s.xdone = false := by rw [hx]; simp; omega
    have hne : s.params.timeout ≠ some s.pollCount := fun e => by have := ht _ e; omega
    have hst := step_pulse h hx' hne (by rw [hc]; rfl)
    rw [runFor_succ_of_next hst]
    have hbit : (s.bitcnt + 1#4).toNat = s.bitcnt.toNat + 1 := by
      rw [BitVec.toNat_add]
      simp
      omega
    have hdone : (transferComplete (s.bitcnt + 1#4)) = (s.bitcnt.toNat + 1 == 8) := by
      rw [transferComplete, Bool.eq_iff_iff, beq_iff_eq, beq_iff_eq, ← hbit]
      exact ⟨fun e => by rw [e]; rfl, fun e => BitVec.eq_of_toNat_eq (by simpa using e)⟩
    have hadv : s.clock.advance = s.clock := by rw [hc]; rfl
    generalize hu : pulse _ = u at hst ⊢
    have hone : u = afterPulses s 1 := by
      rw [← hu]
      have e1 := pulse_trace (s := { quiet s with
        polls := if s.params.timeout = none then s.polls else s.polls.map (PollCounter.plus 1)
        clock := s.clock.advance, draws := s.draws + 1 }) h.driven h.loaded h.rest
      have e2 := pinMiso_of_inited (s := { quiet s with
        polls := if s.params.timeout = none then s.polls else s.polls.map (PollCounter.plus 1)
        clock := s.clock.advance, draws := s.draws + 1 }) h.driven
      apply State.ext
      case sr => exact congrArg s.sr.shiftConcat e2
      case latch => exact e2
      case xdone =>
        show (s.xdone || transferComplete (s.bitcnt + 1#4)) = (s.bitcnt.toNat + 1 == 8)
        rw [hx', hdone]
        rfl
      case sclk => exact h.rest.symm
      case clock => exact hadv
      case device =>
        show s.device.rise _ = s.device.rise s.sr.msb
        rw [State.mosi, if_pos (by exact h.loaded)]
        rfl
      case trace =>
        rw [e1]
        simp [afterPulses, cells, listen]
      all_goals rfl
    rcases Nat.eq_zero_or_pos k with rfl | hk0
    · simp only [runFor, hone]
    · rw [hone]
      have hp : Polling (afterPulses s 1) := ⟨h.shifting, h.released, h.configured, h.latched, h.driven, rfl, h.rest⟩
      have hb1 : (afterPulses s 1).bitcnt.toNat = s.bitcnt.toNat + 1 := hbit
      rw [ih hp (by rw [hb1]; rfl) (by rw [hb1]; omega) hk0 ?_ hc]
      · congr 1
        apply State.ext
        case latch =>
          show ((listen _ _ _ k).1).getLastD (s.device.miso (s.draws + 1)) =
            (s.device.miso (s.draws + 1) :: (listen _ _ _ k).1).getLastD s.latch
          rw [List.getLastD_cons]
          rfl
        case xdone =>
          show (_ + k == 8) = (s.bitcnt.toNat + (k + 1) == 8)
          rw [hb1]
          congr 1
          omega
        case bitcnt =>
          show s.bitcnt + 1#4 + BitVec.ofNat 4 k = s.bitcnt + BitVec.ofNat 4 (k + 1)
          rw [BitVec.add_assoc, Nat.add_comm k, BitVec.ofNat_add]
        case polls =>
          show (if s.params.timeout = none then (afterPulses s 1).polls
            else (afterPulses s 1).polls.map (PollCounter.plus k)) =
            if s.params.timeout = none then s.polls else s.polls.map (PollCounter.plus (k + 1))
          by_cases hn : s.params.timeout = none
          · simp only [hn, if_true, afterPulses]
          · simp only [hn, if_false, afterPulses, Option.map_map, PollCounter.plus_comp, Nat.add_comm k 1]
        case draws => show s.draws + 1 + k = s.draws + (k + 1); omega
        case trace => simp [afterPulses, cells, listen, shiftAll]
        all_goals rfl
      · intro n hn
        have := ht n hn
        have := pollCount_counted_le (s := s) (t := afterPulses s 1) rfl
        omega

end Sys2Proof.Machine
end

