-- ==== Sys2Proof/Laws/Wire.lean ====
section
/-! SUPPORT. Eight bit cells read back as one byte each way: the shift register, the byte events, and what a scripted device
and the fixture answer over a whole byte. -/

namespace Sys2Proof.Machine

/-! ## Shifting bits into a byte -/

theorem shiftAll_snoc (b : Byte) (ms : List Bool) (m : Bool) : shiftAll b (ms ++ [m]) = (shiftAll b ms).shiftConcat m := by
  simp [shiftAll]

/-- Bit `k` after shifting: the last bits shifted in lie lowest, what is left of the old byte lies above them. -/
theorem shiftAll_getLsbD (ms : List Bool) (b : Byte) (k : Nat) (hk : k < 8) :
    (shiftAll b ms).getLsbD k =
      if h : k < ms.length then ms[ms.length - 1 - k] else b.getLsbD (k - ms.length) := by
  induction ms using List.reverseRecOn generalizing k with
  | nil => simp [shiftAll]
  | append_singleton l a ih =>
    rw [shiftAll_snoc, BitVec.getLsbD_shiftConcat]
    rcases k with _ | k
    · simp
    · simp only [hk, Nat.add_sub_cancel, ih k (by omega)]
      simp
      by_cases h : k < l.length
      · simp [h]
        rw [List.getElem_append_left (by omega)]
        congr 1
        omega
      · simp [h]

/-- Eight bits leave nothing of the byte that was there. -/
theorem shiftAll_full (ms : List Bool) (b c : Byte) (h : ms.length = 8) : shiftAll b ms = shiftAll c ms := by
  apply BitVec.eq_of_getLsbD_eq
  intro k hk
  rw [shiftAll_getLsbD _ _ _ hk, shiftAll_getLsbD _ _ _ hk]
  simp [h, hk]

theorem shiftAll_bitsOf (b c : Byte) : shiftAll c (bitsOf b) = b := by
  apply BitVec.eq_of_getLsbD_eq
  intro k hk
  rw [shiftAll_getLsbD _ _ _ hk]
  have : k < (bitsOf b).length := hk
  simp [this]
  interval_cases k <;> simp [bitsOf, BitVec.getMsbD]

/-- With fewer than eight bits shifted in, the top bit is the next bit of the old byte. -/
theorem shiftAll_msb (ms : List Bool) (b : Byte) (h : ms.length < 8) : (shiftAll b ms).msb = b.getMsbD ms.length := by
  rw [BitVec.msb_eq_getLsbD_last, shiftAll_getLsbD _ _ _ (by omega)]
  have : ¬ (8 - 1 < ms.length) := by omega
  simp only [this, dif_neg, not_false_eq_true, BitVec.getMsbD]
  simp [h]

/-- The data-out levels while these bits are shifted in. -/
def levels (sr : Byte) : List Bool → List Bool
  | [] => []
  | m :: ms => sr.msb :: levels (sr.shiftConcat m) ms

theorem levels_snoc (b : Byte) (ms : List Bool) (m : Bool) :
    levels b (ms ++ [m]) = levels b ms ++ [(shiftAll b ms).msb] := by
  induction ms generalizing b with
  | nil => rfl
  | cons x ms ih => simp [levels, ih, shiftAll]

theorem list_of_length_eight {l : List Bool} (h : l.length = 8) :
    ∃ m1 m2 m3 m4 m5 m6 m7 m8, l = [m1, m2, m3, m4, m5, m6, m7, m8] := by
  match l, h with
  | [m1, m2, m3, m4, m5, m6, m7, m8], _ => exact ⟨m1, m2, m3, m4, m5, m6, m7, m8, rfl⟩

/-- Over eight cells the data-out levels are the byte, highest bit first, whatever is shifted in. -/
theorem levels_eight (b : Byte) (ms : List Bool) (h : ms.length = 8) : levels b ms = bitsOf b := by
  obtain ⟨m1, m2, m3, m4, m5, m6, m7, m8, rfl⟩ := list_of_length_eight h
  have e0 := shiftAll_msb [] b (by simp)
  have e1 := shiftAll_msb [m1] b (by simp)
  have e2 := shiftAll_msb [m1, m2] b (by simp)
  have e3 := shiftAll_msb [m1, m2, m3] b (by simp)
  have e4 := shiftAll_msb [m1, m2, m3, m4] b (by simp)
  have e5 := shiftAll_msb [m1, m2, m3, m4, m5] b (by simp)
  have e6 := shiftAll_msb [m1, m2, m3, m4, m5, m6] b (by simp)
  have e7 := shiftAll_msb [m1, m2, m3, m4, m5, m6, m7] b (by simp)
  simp only [shiftAll, List.foldl, List.length] at e0 e1 e2 e3 e4 e5 e6 e7
  simp only [levels, bitsOf, e0, e1, e2, e3, e4, e5, e6, e7]

/-! ## What the cells of a byte read back as -/

theorem byteEventsFrom_mosi (out inp : Byte) (n : Nat) (es : List Event) (x y z : Bool) :
    byteEventsFrom out inp n (pinEvent true x y (.mosi z) ++ es) = byteEventsFrom out inp n es := by
  unfold pinEvent
  split <;> rfl

theorem byteEventsFrom_cell (out inp : Byte) (n : Nat) (sr : Byte) (m : Bool) (es : List Event) :
    byteEventsFrom out inp n (cell sr m ++ es) =
      if n + 1 = 8 then .xf (out.shiftConcat sr.msb) (inp.shiftConcat m) :: byteEventsFrom 0x00#8 0x00#8 0 es
      else byteEventsFrom (out.shiftConcat sr.msb) (inp.shiftConcat m) (n + 1) es := by
  simp only [cell, List.cons_append, List.nil_append, byteEventsFrom, byteEventsFrom_mosi]

/-- Eight cells are one `XF(out, in)`. -/
theorem byteEvents_cells (b : Byte) (ms : List Bool) (h : ms.length = 8) (es : List Event) :
    byteEvents (cells b ms ++ es) = .xf b (shiftAll b ms) :: byteEvents es := by
  have hl := levels_eight b ms h
  have hf := shiftAll_full ms 0 b h
  have hb := shiftAll_bitsOf b 0
  rw [← hl] at hb
  obtain ⟨m1, m2, m3, m4, m5, m6, m7, m8, rfl⟩ := list_of_length_eight h
  unfold byteEvents
  simp only [cells, List.append_assoc, byteEventsFrom_cell, List.nil_append]
  norm_num
  exact ⟨hb, hf⟩

@[simp] theorem streamed_append (as bs : List Event) : streamed (as ++ bs) = streamed as ++ streamed bs := by
  simp [streamed]

@[simp] theorem responses_append (as bs : List Event) : responses (as ++ bs) = responses as ++ responses bs := by
  simp [responses]

@[simp] theorem clockCycles_append (as bs : List Event) : clockCycles (as ++ bs) = clockCycles as + clockCycles bs := by
  simp [clockCycles]

@[simp] theorem mosiAtEdges_append (as bs : List Event) : mosiAtEdges (as ++ bs) = mosiAtEdges as ++ mosiAtEdges bs := by
  simp [mosiAtEdges]

@[simp] theorem pinEvents_append (as bs : List Event) : pinEvents (as ++ bs) = pinEvents as ++ pinEvents bs := by
  simp [pinEvents]

/-- A cell streams nothing, answers nothing, and is one clock cycle at whose edge the device sees the top bit. -/
theorem cell_views (sr : Byte) (m : Bool) :
    streamed (cell sr m) = [] ∧ responses (cell sr m) = [] ∧ clockCycles (cell sr m) = 1 ∧
      mosiAtEdges (cell sr m) = [sr.msb] := by
  unfold cell pinEvent
  split <;> exact ⟨rfl, rfl, rfl, rfl⟩

theorem cells_views (sr : Byte) (ms : List Bool) :
    streamed (cells sr ms) = [] ∧ responses (cells sr ms) = [] ∧ clockCycles (cells sr ms) = ms.length ∧
      mosiAtEdges (cells sr ms) = levels sr ms := by
  induction ms generalizing sr with
  | nil => exact ⟨rfl, rfl, rfl, rfl⟩
  | cons m ms ih =>
    obtain ⟨h1, h2, h3, h4⟩ := ih (sr.shiftConcat m)
    obtain ⟨c1, c2, c3, c4⟩ := cell_views sr m
    simp only [cells, streamed_append, responses_append, clockCycles_append, mosiAtEdges_append, h1, h2, h3, h4,
      c1, c2, c3, c4, List.length_cons, levels]
    exact ⟨rfl, rfl, Nat.add_comm _ _, rfl⟩

/-! ## What the device answers over a byte -/

/-- A scripted device answers its next bits, whatever is sent. -/
theorem listen_script (b : Byte) (n : Nat) (bits rest : List Bool) :
    listen (.script (bits ++ rest)) n b bits.length = (bits, .script rest) := by
  induction bits generalizing b n with
  | nil => rfl
  | cons m ms ih => simp only [List.length, listen, List.cons_append, Device.rise, Device.miso_script, List.tail, ih]

theorem listen_snoc (k : Nat) (d : Device) (n : Nat) (b : Byte) :
    listen d n b (k + 1) =
      (let r := listen d n b k
        let m := r.2.miso (n + k + 1)
        (r.1 ++ [m], r.2.rise (shiftAll b r.1).msb)) := by
  induction k generalizing d n b with
  | zero => rfl
  | succ k ih =>
    rw [listen, ih]
    simp only [listen, shiftAll, List.foldl, List.cons_append]
    rw [show n + 1 + k + 1 = n + (k + 1) + 1 by omega]

/-- Before its eighth edge the fixture only counts and remembers. -/
theorem listen_fixture_lt (k : Nat) (f : Fixture) (n : Nat) (b : Byte) (h : f.edges + k < 8) :
    listen (.fixture f) n b k =
      ((List.range' f.edges k).map (fun j => f.answer.getMsbD j),
        .fixture { f with
          edges := f.edges + k
          heard := shiftAll f.heard (levels b ((List.range' f.edges k).map (fun j => f.answer.getMsbD j))) }) := by
  induction k generalizing f n b with
  | zero => rfl
  | succ k ih =>
    have hr : f.rise b.msb = { f with edges := f.edges + 1, heard := f.heard.shiftConcat b.msb } := by
      simp only [Fixture.rise]
      rw [if_neg (by omega)]
    simp only [listen, Device.rise, Device.miso_fixture]
    rw [hr, ih _ _ _ (by simp; omega)]
    have ha : Fixture.answer { f with edges := f.edges + 1, heard := f.heard.shiftConcat b.msb } = f.answer := rfl
    simp only [ha, List.range'_succ, List.map_cons, levels, shiftAll, List.foldl]
    congr 3
    omega

/-- Over a whole byte the fixture answers the bits of one byte and takes the byte sent. -/
theorem listen_fixture (f : Fixture) (n : Nat) (b : Byte) (h : f.edges = 0) :
    listen (.fixture f) n b 8 = (bitsOf f.answer, .fixture (f.byteDone b)) := by
  rw [listen_snoc, listen_fixture_lt 7 f n b (by omega)]
  simp only [h, Device.miso_fixture, Device.rise, Fixture.rise, Nat.zero_add]
  have ha (x : Byte) : Fixture.answer { f with edges := 7, heard := x } = f.answer := rfl
  have hm : (List.range' 0 7).map (fun j => f.answer.getMsbD j) ++ [f.answer.getMsbD 7] = bitsOf f.answer := rfl
  rw [ha, hm]
  congr 2
  rw [← shiftAll_snoc, ← levels_snoc _ _ (f.answer.getMsbD 7), hm, levels_eight b (bitsOf f.answer) rfl, shiftAll_bitsOf]
  rfl

theorem byteDone_edges (f : Fixture) (b : Byte) : (f.byteDone b).edges = 0 := by
  unfold Fixture.byteDone
  dsimp only
  repeat (first | rfl | split)

end Sys2Proof.Machine
end

