-- ==== Sys2Proof/Tests/Slice0.lean ====
section
/-! SUPPORT. Tests: the well-formedness smoke tests, command words written out bit by bit, vectors of 95_test_vectors.md (named
V1, S2, P8 as there), one step each, and for every obligation with hypotheses a state and operands that meet them. -/

namespace Sys2Proof.Tests

open Sys2Proof.Machine

/-! ## Well-formedness: each check refuses an ill-formed term -/

theorem test_assembled_init_addr : (Instr.init 0xFF#8 0x0000#16).assembled = false := by decide
theorem test_assembled_init_data : (Instr.init 0x00#8 0x0001#16).assembled = false := by decide
theorem test_assembled_wr8_high_byte : (Instr.wr8 0x40#8 0x01FF#16).assembled = false := by decide
theorem test_assembled_rd8_data : (Instr.rd8 0x08#8 0x0001#16).assembled = false := by decide
theorem test_assembled_rd16_data : (Instr.rd16 0x0E#8 0x1234#16).assembled = false := by decide
theorem test_assembled_rdfifo_addr : (Instr.rdfifo 0xAB#8 0x0003#16).assembled = false := by decide
theorem test_assembled_accepts :
    [Instr.init 0x00#8 0x0000#16, .wr8 0x1F#8 0x0052#16, .wr16 0xFF#8 0xABCD#16, .rd8 0x08#8 0x0000#16,
      .rd16 0x0E#8 0x0000#16, .rdfifo 0x00#8 0xFFFF#16, .rdburst 0x0E#8 0x0006#16].all Instr.assembled = true := by decide

/-- V80. -/
theorem test_timeout_five_is_ill_formed : ({ timeout := some 5 } : Params).wellFormed = false := by decide
theorem test_timeout_eight_is_well_formed : ({ timeout := some 8 } : Params).wellFormed = true := by decide

/-! ## Decoding: words written out from 30_encoding.md R60 and R61, opcode, zero, address, data -/

theorem test_decode_init :
    decodeWord (0b0000#4 ++ 0b0000#4 ++ 0b00000000#8 ++ 0b0000000000000000#16) = .ok (.init 0x00#8 0x0000#16) := rfl
theorem test_decode_wr8 :
    decodeWord (0b0001#4 ++ 0b0000#4 ++ 0b00011111#8 ++ 0b0000000001010010#16) = .ok (.wr8 0x1F#8 0x0052#16) := rfl
theorem test_decode_wr16 :
    decodeWord (0b0010#4 ++ 0b0000#4 ++ 0b11111111#8 ++ 0b1010101111001101#16) = .ok (.wr16 0xFF#8 0xABCD#16) := rfl
theorem test_decode_rd8 :
    decodeWord (0b0011#4 ++ 0b0000#4 ++ 0b00001000#8 ++ 0b0000000000000000#16) = .ok (.rd8 0x08#8 0x0000#16) := rfl
theorem test_decode_rd16 :
    decodeWord (0b0100#4 ++ 0b0000#4 ++ 0b00001110#8 ++ 0b0000000000000000#16) = .ok (.rd16 0x0E#8 0x0000#16) := rfl
theorem test_decode_rdfifo :
    decodeWord (0b0101#4 ++ 0b0000#4 ++ 0b00000000#8 ++ 0b0000000011111111#16) = .ok (.rdfifo 0x00#8 0x00FF#16) := rfl
theorem test_decode_rdburst :
    decodeWord (0b0110#4 ++ 0b0000#4 ++ 0b00001110#8 ++ 0b0000000000000110#16) = .ok (.rdburst 0x0E#8 0x0006#16) := rfl
/-- V73, and V63: a reserved field beats every opcode. -/
theorem test_decode_reserved_field : decodeWord 0x31000000#32 = .error .reservedField := rfl
/-- V72: the highest reserved opcode, with low bits set. -/
theorem test_decode_reserved_opcode : decodeWord 0xF0FFFFFF#32 = .error .reservedOpcode := rfl
/-- V38. -/
theorem test_encode_rd16 : encode (.rd16 0x0E#8 0x0000#16) = 0x400E0000#32 := by decide
theorem test_table_word : decodeTableWord 32 0x20FFABCD = some (.wr16 0xFF#8 0xABCD#16) := rfl
theorem test_table_word_too_long : decodeTableWord 32 0x100000000 = none := rfl

/-! ## States for the tests -/

/-- The block configured and idle, with a clock source that never stalls and no device: 95_test_vectors.md, conventions. -/
def bench : State :=
  { State.reset with inited := true, srLoaded := true, clock := .script [] true, device := .script [] }

/-- The block with command `i` in flight in a phase. -/
def inPhase (i : Instr) (seq : Seq) : State :=
  { bench with
    seq := seq, op := i.opcode, addr := i.addr, wdata := i.data
    csN := !(seq == .load || seq == .shift || seq == .desel) }

/-- A transfer of frame byte `idx` whose eight pulses are done and left `sr`. -/
def done (i : Instr) (idx : FrameIndex) (sr : Byte) : State :=
  { inPhase i .shift with idx := idx, sr := sr, bitcnt := 8#4, xdone := true }

/-- POLLS in the 4 bits that hold 8 (10_state.md R15). -/
def polled (n : Nat) : Option PollCounter := some { width := 4, count := BitVec.ofNat 4 n }

/-- A register store with `0x45` at `0x40`. -/
def store : Fixture := { regs := [(0x40, 0x45#8)] }

/-! ## Vectors -/

/-- The single PULSE vectors of section 2.1. -/
theorem test_pulse_samples_zero :
    (pulse { inPhase (.rd8 0x08#8 0x0000#16) .shift with sr := 0xA5#8, device := .script [false] }).sr = 0x4A#8 := by decide
theorem test_pulse_samples_one :
    (pulse { inPhase (.rd8 0x08#8 0x0000#16) .shift with sr := 0x00#8, device := .script [true] }).sr = 0x01#8 := by decide
/-- V2, cell 4: SR 0x57, the line pulled up; MOSI goes to 1 after the cell. -/
theorem test_pulse_pins :
    (pulse { inPhase (.wr8 0x00#8 0x0000#16) .shift with sr := 0x57#8, bitcnt := 3#4 }).trace =
      [.sclk true, .sample false true, .sclk false, .mosi true] := by decide
/-- V1, last pulse: the eighth sets XDONE. -/
theorem test_eighth_pulse :
    let t := pulse { inPhase (.rd8 0x08#8 0x0000#16) .shift with sr := 0x9E#8, bitcnt := 7#4, device := .script [false] }
    t.sr = 0x3C#8 ∧ t.bitcnt = 8#4 ∧ t.xdone = true := by decide
/-- V20: IDX is left at 7 by an earlier command. -/
theorem test_select :
    let t := select { inPhase (.rd8 0x08#8 0x0000#16) .sel with idx := 7#17 }
    t.csN = false ∧ t.idx = 0#17 ∧ t.seq = .load ∧ t.trace = [.cs false] := by decide
/-- V21. -/
theorem test_deselect :
    let t := deselect { inPhase (.rd8 0x08#8 0x0000#16) .desel with idx := 3#17 }
    t.csN = true ∧ t.idx = 3#17 ∧ t.seq = .resp ∧ t.trace = [.cs true] := by decide

/-- S1, V60. -/
theorem test_init_frame : frameOf (.init 0x00#8 0x0000#16) 0x00#8 = [0x0A#8, 0x1F#8, 0x52#8] := by decide
/-- V61: operands set are not latched; from reset the pins become driven. -/
theorem test_init_latches_constants :
    let t := acceptOf (.init 0xFF#8 0xFFFF#16) State.reset
    t.op = 0x1#4 ∧ t.addr = 0x1F#8 ∧ t.wdata = 0x0052#16 ∧ t.inited = true ∧ t.trace = [.oe true] := by decide
/-- V31: `data[15:8]` is dropped. -/
theorem test_wr8_frame : frameOf (.wr8 0x40#8 0x01FF#16) 0x00#8 = [0x0A#8, 0x40#8, 0xFF#8] := by decide
/-- V35: low byte first. -/
theorem test_wr16_frame : frameOf (.wr16 0xFF#8 0xABCD#16) 0x00#8 = [0x0A#8, 0xFF#8, 0xCD#8, 0xAB#8] := by decide
/-- V49: `DUMMY = 0xFF`. -/
theorem test_rd8_frame : frameOf (.rd8 0x08#8 0x0000#16) 0xFF#8 = [0x0B#8, 0x08#8, 0xFF#8] := by decide
/-- V36: the byte at position 2 is the result, zero-extended. -/
theorem test_rd8_collects :
    let c := rd8Command 0x08#8 0x00#8
    let t := xferCollect c { done (.rd8 0x08#8 0x0000#16) 2#17 0x3C#8 with rdata := 0xFFFF#16 }
    t.rdata = 0x003C#16 ∧ t.seq = .desel := by decide
/-- V38: the byte at position 3 is the high one. -/
theorem test_rd16_collects :
    let t := xferCollect (rd16Command 0x0E#8 0x00#8) { done (.rd16 0x0E#8 0x0000#16) 3#17 0x12#8 with rdata := 0x0034#16 }
    t.rdata = 0x1234#16 ∧ t.idx = 4#17 ∧ t.seq = .desel := by decide
/-- S2. -/
theorem test_rd16_result :
    resultOf (.rd16 0x0E#8 0x0000#16) [0x00#8, 0x00#8, 0xFE#8, 0xFF#8] = .data 0xFFFE#16 := by decide
/-- V40: `RDFIFO 0` ends after its command byte, which is not streamed. -/
theorem test_rdfifo_zero :
    let t := xferCollect (rdfifoCommand 0x0000#16 0x00#8) (done (.rdfifo 0x00#8 0x0000#16) 0#17 0x7E#8)
    t.sb = none ∧ t.seq = .desel := by decide
/-- V41: the byte at position 1 is streamed. -/
theorem test_rdfifo_streams :
    let t := xferCollect (rdfifoCommand 0x0001#16 0x00#8) (done (.rdfifo 0x00#8 0x0001#16) 1#17 0x7E#8)
    t.sb = some 0x7E#8 ∧ t.rdata = 0x0000#16 ∧ t.seq = .desel := by decide
/-- V44. -/
theorem test_rdburst_frame :
    frameOf (.rdburst 0x0E#8 0x0006#16) 0x00#8 =
      [0x0B#8, 0x0E#8, 0x00#8, 0x00#8, 0x00#8, 0x00#8, 0x00#8, 0x00#8] := by decide
/-- V46: the same bytes as `RD8`, with Done and not Data. -/
theorem test_rdburst_one :
    frameOf (.rdburst 0x20#8 0x0001#16) 0x00#8 = frameOf (.rd8 0x20#8 0x0000#16) 0x00#8 ∧
      resultOf (.rdburst 0x20#8 0x0001#16) [0x00#8, 0x00#8, 0x7E#8] = .done := by decide

/-- The split and join vectors of section 2.3. -/
theorem test_split : (lowByte 0x8001#16, highByte 0x8001#16) = (0x01#8, 0x80#8) := by decide
theorem test_join : joinBytes 0x34#8 0x12#8 = 0x1234#16 := by decide

/-- V70: NotInit, with no event but the response. -/
theorem test_rd8_before_init :
    step (State.reset.present 0x30000000#32) =
      .next { State.reset with
        rsp := some (.fault 2#2), err := 2#2, seq := .fault, trace := [.respond (.fault 2#2)] } := rfl
/-- V71: illegal beats not-initialised. -/
theorem test_reserved_opcode_before_init :
    step (State.reset.present 0x70000000#32) =
      .next { State.reset with
        rsp := some (.fault 1#2), err := 1#2, seq := .fault, trace := [.respond (.fault 1#2)] } := rfl
/-- V76: the ninth poll of a transfer with `TIMEOUT = 8` faults, and the open frame is closed. -/
theorem test_timeout :
    let s := { inPhase (.init 0x00#8 0x0000#16) .shift with params := { timeout := some 8 }, polls := polled 8, bitcnt := 7#4 }
    let t := xferPoll s
    t.err = 3#2 ∧ t.seq = .fault ∧ t.csN = true ∧ t.bitcnt = 7#4 ∧ t.trace = [.cs true, .respond (.fault 3#2)] := by decide
/-- V77: the eighth pulse ends the transfer before a Timeout is looked at. -/
theorem test_no_timeout_at_eighth_pulse :
    let s := { inPhase (.init 0x00#8 0x0000#16) .shift with params := { timeout := some 8 }, polls := polled 7, bitcnt := 7#4 }
    (xferPoll s).xdone = true ∧ (xferPoll s).err = 0#2 := by decide
/-- V91: reset inside byte 2. -/
theorem test_reset_inside_a_frame :
    let t := applyReset { inPhase (.rd16 0x0E#8 0x0000#16) .shift with rst := 1, bitcnt := 3#4, idx := 2#17 }
    t.csN = true ∧ t.pinCsN = none ∧ t.seq = .idle ∧ t.rsp = none ∧ t.rst = 0 := by decide
/-- Reset gives POLLS the width `TIMEOUT` needs: 7 bits for 100 (10_state.md R15). -/
theorem test_reset_poll_width :
    (applyReset { bench with rst := 1, params := { timeout := some 100 } }).polls = some { width := 7, count := 0#7 } := by
  decide
/-- 10_state.md R18: the pull-up is on with the pins configured, so an undriven line reads 1, and off before INIT. -/
theorem test_pull_up : bench.pullUp = true ∧ bench.pinMiso = true ∧ State.reset.pullUp = false := by decide
/-- The next step after placing a word runs it, from reset. -/
theorem test_with_fetch_word :
    step (State.reset.withFetchWord 32 0x00000000) = exec (.init 0x00#8 0x0000#16) State.reset := rfl

/-- P8: the second byte of a write to `0xFF` lands at `0x00`. -/
theorem test_fixture_pointer_wraps :
    let f : Fixture := { pos := 2, cmd := 0x0A#8, ptr := 0xFF#8 }
    ((f.byteDone 0xCD#8).byteDone 0xAB#8).regs = [(0x00, 0xAB#8), (0xFF, 0xCD#8)] := by decide
/-- The soft reset is counted and stored. -/
theorem test_fixture_soft_reset :
    let f : Fixture := { pos := 2, cmd := 0x0A#8, ptr := 0x1F#8 }
    (f.byteDone 0x52#8).resets = 1 ∧ (f.byteDone 0x52#8).regs = [(0x1F, 0x52#8)] := by decide
/-- P3, over-read: an empty FIFO answers `0x00`. -/
theorem test_fixture_fifo_empty : ({ pos := 1, cmd := 0x0D#8 } : Fixture).answer = 0x00#8 := by decide
/-- Writing back what an unlisted register reads as removes the entry. -/
theorem test_memory_canonical : Memory.write [(0x40, 0x45#8)] 0x40 0x00#8 = [] := by decide

/-! ## Witnesses: states and operands that meet each obligation's hypotheses -/

theorem witness_keptPositions : Route.drop.kept = false := rfl

theorem witness_splitAndJoinAgree :
    let ins : List Byte := [0x00#8, 0x00#8, 0x34#8, 0x12#8]
    ins[2]? = some 0x34#8 ∧ ins[3]? = some 0x12#8 := by decide

theorem witness_pulseMovesOneBit : bench.inited = true ∧ bench.srLoaded = true ∧ bench.sclk = false := by decide

theorem witness_everyCommandSelects :
    let s := inPhase (.wr8 0x40#8 0x00FF#16) .sel
    s.seq = .sel ∧ s.inited = true ∧ s.csN = true := by decide

/-- At the first and at the last byte of the longest fixed frame. -/
theorem witness_everyCommandLoads :
    let i : Instr := .rd16 0x0E#8 0x0000#16
    let s := inPhase i .load
    s.seq = .load ∧ (frameOf i s.params.dummy)[s.idx.toNat]? = some 0x0B#8 ∧
      (frameOf i s.params.dummy)[({ s with idx := 3#17 }).idx.toNat]? = some 0x00#8 := by decide

/-- A poll answered true, one answered false, and the last poll before a Timeout is due. -/
theorem witness_everyCommandPolls :
    let s := inPhase (.rdfifo 0x00#8 0x0003#16) .shift
    (s.seq = .shift ∧ s.xdone = false ∧ s.params.timeout ≠ some s.pollCount ∧ s.clock.answer s.draws = true) ∧
    (Clock.script [false] true).answer s.draws = false ∧ (some 8 : Option Nat) ≠ some 7 := by decide

/-- A byte after which the frame goes on, and its last one. -/
theorem witness_everyCommandCollects :
    let i : Instr := .rd8 0x08#8 0x0000#16
    (done i 0#17 0x00#8).seq = .shift ∧ (done i 0#17 0x00#8).xdone = true ∧
    (frameOf i 0x00#8).length ≠ (0#17 + 1#17).toNat ∧ (frameOf i 0x00#8).length = (2#17 + 1#17).toNat := by decide

theorem witness_everyCommandDeselects :
    let s := inPhase (.wr16 0x20#8 0x1234#16) .desel
    s.seq = .desel ∧ s.inited = true ∧ s.csN = false := by decide


/-- Every clause of the seven statements on one command, at the last frame byte. -/
theorem witness_initEngineSteps :
    (State.reset.seq = .idle ∧ State.reset.csN = true ∧ State.reset.sclk = false) ∧
    ([0x0A#8, 0x1F#8, 0x52#8] : List Byte)[(2#17 : FrameIndex).toNat]? = some 0x52#8 ∧
    (inPhase (.init 0x00#8 0x0000#16) .load).seq = .load ∧
    ((done (.init 0x00#8 0x0000#16) 2#17 0x00#8).seq = .shift ∧ (done (.init 0x00#8 0x0000#16) 2#17 0x00#8).xdone = true) ∧
    (inPhase (.init 0x00#8 0x0000#16) .resp).seq = .resp := by decide

theorem witness_wr8EngineSteps :
    (bench.seq = .idle ∧ bench.inited = true) ∧
    ([0x0A#8, 0x40#8, (0x01FF#16).extractLsb' 0 8] : List Byte)[(2#17 : FrameIndex).toNat]? = some 0xFF#8 ∧
    (inPhase (.wr8 0x40#8 0x01FF#16) .load).seq = .load ∧
    ((done (.wr8 0x40#8 0x01FF#16) 2#17 0x00#8).seq = .shift ∧ (done (.wr8 0x40#8 0x01FF#16) 2#17 0x00#8).xdone = true) ∧
    (inPhase (.wr8 0x40#8 0x01FF#16) .resp).seq = .resp := by decide

theorem witness_wr16EngineSteps :
    (bench.seq = .idle ∧ bench.inited = true) ∧
    ([0x0A#8, 0xFF#8, (0xABCD#16).extractLsb' 0 8, (0xABCD#16).extractLsb' 8 8] : List Byte)[(3#17 : FrameIndex).toNat]? =
      some 0xAB#8 ∧
    (inPhase (.wr16 0xFF#8 0xABCD#16) .load).seq = .load ∧
    ((done (.wr16 0xFF#8 0xABCD#16) 3#17 0x00#8).seq = .shift ∧ (done (.wr16 0xFF#8 0xABCD#16) 3#17 0x00#8).xdone = true) ∧
    (inPhase (.wr16 0xFF#8 0xABCD#16) .resp).seq = .resp := by decide

theorem witness_rd8EngineSteps :
    (bench.seq = .idle ∧ bench.inited = true) ∧
    ([0x0B#8, 0x08#8, bench.params.dummy] : List Byte)[(2#17 : FrameIndex).toNat]? = some 0x00#8 ∧
    (inPhase (.rd8 0x08#8 0x0000#16) .load).seq = .load ∧
    ((done (.rd8 0x08#8 0x0000#16) 2#17 0x3C#8).seq = .shift ∧ (done (.rd8 0x08#8 0x0000#16) 2#17 0x3C#8).xdone = true) ∧
    (inPhase (.rd8 0x08#8 0x0000#16) .resp).seq = .resp := by decide

theorem witness_rd16EngineSteps :
    (bench.seq = .idle ∧ bench.inited = true) ∧
    ([0x0B#8, 0x0E#8, bench.params.dummy, bench.params.dummy] : List Byte)[(3#17 : FrameIndex).toNat]? = some 0x00#8 ∧
    (inPhase (.rd16 0x0E#8 0x0000#16) .load).seq = .load ∧
    ((done (.rd16 0x0E#8 0x0000#16) 3#17 0x12#8).seq = .shift ∧ (done (.rd16 0x0E#8 0x0000#16) 3#17 0x12#8).xdone = true) ∧
    (inPhase (.rd16 0x0E#8 0x0000#16) .resp).seq = .resp := by decide

/-- The largest count: IDX reaches 65535 at the last byte. -/
theorem witness_rdfifoEngineSteps :
    (bench.seq = .idle ∧ bench.inited = true) ∧
    ((inPhase (.rdfifo 0x00#8 0xFFFF#16) .load).seq = .load ∧ (65535#17).toNat ≤ (0xFFFF#16).toNat) ∧
    ((done (.rdfifo 0x00#8 0xFFFF#16) 65535#17 0x7E#8).seq = .shift ∧
      (done (.rdfifo 0x00#8 0xFFFF#16) 65535#17 0x7E#8).xdone = true) ∧
    (inPhase (.rdfifo 0x00#8 0xFFFF#16) .resp).seq = .resp := by decide

/-- The largest count: IDX reaches 65536 at the last byte, which is why it is 17 bits wide. -/
theorem witness_rdburstEngineSteps :
    (bench.seq = .idle ∧ bench.inited = true) ∧
    ((inPhase (.rdburst 0x0E#8 0xFFFF#16) .load).seq = .load ∧ (65536#17).toNat ≤ (0xFFFF#16).toNat + 1) ∧
    ((done (.rdburst 0x0E#8 0xFFFF#16) 65536#17 0x7E#8).seq = .shift ∧
      (done (.rdburst 0x0E#8 0xFFFF#16) 65536#17 0x7E#8).xdone = true) ∧
    (inPhase (.rdburst 0x0E#8 0xFFFF#16) .resp).seq = .resp := by decide

theorem witness_stepRunsTheDecodedCommand :
    (bench.params.wellFormed = true ∧ bench.rst = 0 ∧ bench.seq = .idle ∧
      (bench.present 0x400E1234#32).cmds = [0x400E1234#32] ∧
      decodeWord 0x400E1234#32 = .ok (.rd16 0x0E#8 0x1234#16)) ∧
    (inPhase (.rd16 0x0E#8 0x1234#16) .desel).stBusy = true ∧
    commandOfFields 0x4#4 0x0E#8 0x1234#16 = some (.rd16 0x0E#8 0x1234#16) :=
  ⟨⟨rfl, rfl, rfl, rfl, rfl⟩, rfl, rfl⟩

/-- One word for each row of the table: a reserved field, a reserved opcode, RD8 before INIT, INIT, WR16 after INIT. -/
theorem witness_acceptTable :
    (State.reset.params.wellFormed = true ∧ State.reset.rst = 0 ∧ State.reset.seq = .idle ∧
      State.reset.csN = true ∧ State.reset.sclk = false) ∧
    (0x01000000#32 : Word).extractLsb' 24 4 ≠ 0#4 ∧ 7 ≤ ((0x70000000#32 : Word).extractLsb' 28 4).toNat ∧
    ((0x30000000#32 : Word).extractLsb' 28 4 ≠ 0#4 ∧ State.reset.inited = false) ∧
    (0x00FFFFFF#32 : Word).extractLsb' 28 4 = 0#4 ∧
    ((0x60FFABCD#32 : Word).extractLsb' 28 4 ≠ 0#4 ∧ bench.inited = true) := by decide

theorem witness_illegalOpLeavesNoTrace :
    let s := bench.present 0x31000000#32
    s.params.wellFormed = true ∧ s.rst = 0 ∧ s.seq = .idle ∧ s.csN = true ∧ s.sclk = false ∧
      s.cmds = [0x31000000#32] ∧ decodeWord 0x31000000#32 = .error .reservedField :=
  ⟨rfl, rfl, rfl, rfl, rfl, rfl, rfl⟩

theorem witness_notInitBeforeInit :
    let s := State.reset.present (encode (.rd8 0x00#8 0x0000#16))
    let r := State.reset.present (encode (.init 0x00#8 0x0000#16))
    (s.params.wellFormed = true ∧ s.rst = 0 ∧ s.seq = .idle ∧ s.csN = true ∧ s.sclk = false ∧ s.inited = false ∧
      s.cmds = [encode (.rd8 0x00#8 0x0000#16)]) ∧ r.cmds = [encode (.init 0x00#8 0x0000#16)] := by decide

theorem witness_faultEntry : (inPhase (.wr8 0x40#8 0x00FF#16) .shift).sclk = false := rfl

theorem witness_timeoutFaultsEveryCommand :
    let s := { inPhase (.init 0x00#8 0x0000#16) .shift with params := { timeout := some 8 }, polls := polled 8 }
    s.seq = .shift ∧ s.xdone = false ∧ s.params.timeout = some s.pollCount ∧ s.inited = true ∧ s.csN = false ∧
      s.sclk = false := by decide

theorem witness_resetStep :
    let s := { inPhase (.rd16 0x0E#8 0x0000#16) .shift with rst := 1 }
    s.params.wellFormed = true ∧ 0 < s.rst := by decide

theorem witness_resetKeepsTheOutside :
    let s := { inPhase (.rd16 0x0E#8 0x0000#16) .shift with rst := 1 }
    0 < s.rst ∧ step s = .next (applyReset s) := ⟨by decide, rfl⟩

theorem witness_onlyShortTimeoutsAreRefused :
    let p : Params := { timeout := some 7 }
    p.timeout = some 7 ∧ 7 < 8 ∧ bench.params.wellFormed = true := by decide

/-! Invariants: an idle state, one inside a transfer, and one in FAULT meet the invariant, and each has a next state. -/

/-- The invariant as one closed question. -/
def invCheck (s : State) : Bool :=
  s.csN == !s.inFrame && (!s.stBusy || s.inited) && s.sclk == false && decide (s.bitcnt.toNat ≤ 8) &&
  (!s.xdone || s.bitcnt == 8#4) && decide (s.seq = .shift → s.xdone = false → s.bitcnt.toNat < 8) &&
  decide (s.err ≠ 0#2 ↔ s.seq = .fault) && (!s.stBusy || s.inFlight.isSome) &&
  decide (s.seq = .load ∨ s.seq = .shift → s.idx.toNat < s.frameLength) &&
  decide (s.seq ≠ .sel → s.idx.toNat ≤ s.frameLength) && decide (s.idx.toNat ≤ 65537) &&
  decide (s.polls.map PollCounter.width = s.params.timeout.map pollWidth) &&
  match s.params.timeout with
  | none => true
  | some t => decide (s.pollCount ≤ t)

theorem inv_of_check {s : State} (h : invCheck s = true) : s.Inv := by
  simp only [invCheck, Bool.and_eq_true, Bool.or_eq_true, Bool.not_eq_true', beq_iff_eq, decide_eq_true_eq] at h
  obtain ⟨⟨⟨⟨⟨⟨⟨⟨⟨⟨⟨⟨framed, configured⟩, low⟩, bits⟩, full⟩, notDone⟩, faulted⟩, latched⟩, indexed⟩, bound⟩, range⟩,
    shape⟩, polls⟩ := h
  have imp {p : Prop} {b : Bool} (h : b = false ∨ p) (hb : b = true) : p := h.resolve_left (by simp [hb])
  refine ⟨framed, imp configured, low, bits, imp full, notDone, faulted, imp latched, indexed, bound, range, shape, ?_⟩
  intro t ht
  simpa [ht] using polls

theorem bench_inv : bench.Inv := inv_of_check (by decide)

/-- RD16 polling frame byte 1 with `TIMEOUT = 8`. -/
def polling : State :=
  { inPhase (.rd16 0x0E#8 0x0000#16) .shift with
    idx := 1#17, bitcnt := 3#4, polls := polled 3, params := { timeout := some 8 } }

theorem polling_inv : polling.Inv := inv_of_check (by decide)

theorem faulted_inv : ({ bench with seq := .fault, err := 2#2 } : State).Inv := inv_of_check (by decide)

theorem responding_inv : (inPhase (.rd16 0x0E#8 0x0000#16) .resp).Inv := inv_of_check (by decide)

/-- In SEL an IDX past the frame's end, left by an earlier command, meets the invariant (V20). -/
theorem selecting_inv : ({ inPhase (.rd8 0x08#8 0x0000#16) .sel with idx := 7#17 } : State).Inv :=
  inv_of_check (by decide)

/-- Each clause's premises together: a poll, an acceptance that leads to SEL, and V20's SELECT. -/
theorem witness_indexStaysInTheFrameItCounts :
    let waiting := bench.present 0x30080000#32
    let selecting : State := { inPhase (.rd8 0x08#8 0x0000#16) .sel with idx := 7#17 }
    (polling.Inv ∧ ∃ t, step polling = .next t ∧ t.seq ≠ .sel) ∧
    (waiting.Inv ∧ ∃ t, step waiting = .next t ∧ t.seq = .sel) ∧
    (selecting.Inv ∧ selecting.seq = .sel ∧ ∃ t, step selecting = .next t) :=
  ⟨⟨polling_inv, _, rfl, by decide⟩, ⟨inv_of_check (by decide), _, rfl, rfl⟩, selecting_inv, rfl, _, rfl⟩

/-- Both clauses' premises together. -/
theorem witness_everyCommandResponds :
    (inPhase (.rd16 0x0E#8 0x0000#16) .resp).seq = .resp ∧ (inPhase (.rd16 0x0E#8 0x0000#16) .resp).Inv :=
  ⟨rfl, responding_inv⟩

theorem witness_faultIsQuiescent :
    let s : State := { bench with seq := .fault, err := 2#2 }
    s.params.wellFormed = true ∧ s.rst = 0 ∧ s.seq = .fault ∧ s.Inv := ⟨rfl, rfl, rfl, faulted_inv⟩

/-- The premises `s.Inv`, a well-formed configuration and `step s = next t` together. -/
theorem witness_stepKeepsTheInvariant :
    polling.Inv ∧ polling.params.wellFormed = true ∧ polling.rst = 0 ∧ ∃ t, step polling = .next t :=
  ⟨polling_inv, rfl, rfl, _, rfl⟩

theorem witness_invariantStepsAnswer : bench.Inv ∧ bench.params.wellFormed = true := ⟨bench_inv, rfl⟩

/-- A step that moves chip-select: SELECT. -/
theorem witness_chipSelectFraming :
    ∃ s t : State, s.Inv ∧ step s = .next t ∧ t.csN ≠ s.csN ∧ t.seq = .load :=
  ⟨_, _, selecting_inv, rfl, by decide, by decide⟩

/-- A step that writes ERR, and one that finds it written. -/
theorem witness_errorIsSticky :
    (({ bench with seq := .fault, err := 2#2 } : State).Inv ∧
      ∃ t, step { bench with seq := .fault, err := 2#2 } = .next t) ∧
    ∃ t, step (State.reset.present 0x30000000#32) = .next t ∧ t.err ≠ 0#2 :=
  ⟨⟨faulted_inv, _, rfl⟩, _, rfl, by decide⟩

/-- A step that clears INITED, and one that sets it. -/
theorem witness_initedIsSetByInitOnly :
    (∃ t, step { bench with rst := 1 } = .next t ∧ bench.inited = true ∧ t.inited = false) ∧
    ∃ t, step (State.reset.present 0x00000000#32) = .next t ∧ State.reset.inited = false ∧ t.inited = true :=
  ⟨⟨_, rfl, by decide, by decide⟩, _, rfl, by decide, by decide⟩

/-- Before INIT, and after it with no device and with one that drives the line low. -/
theorem witness_pinsFollowInited :
    State.reset.inited = false ∧ (bench.inited = true ∧ bench.srLoaded = true ∧ bench.device = .script []) ∧
    ({ bench with device := .script [false] } : State).device = .script [false] := by decide

/-- The three phases of the clauses: a reset, a load and a poll, each with `TIMEOUT = 8`; and no TIMEOUT. -/
theorem witness_pollsCountsThePolls :
    let load : State := { polling with seq := .load }
    (bench.Inv ∧ bench.params.timeout = none) ∧ polling.params.wellFormed = true ∧ polling.params.timeout = some 8 ∧
    (polling.Inv ∧ polling.rst = 0 ∧ polling.seq = .shift ∧ polling.xdone = false ∧ polling.pollCount ≠ 8) ∧
    (load.Inv ∧ load.rst = 0 ∧ load.seq = .load) ∧ ({ polling with rst := 1 } : State).Inv :=
  ⟨⟨bench_inv, rfl⟩, rfl, rfl, ⟨polling_inv, rfl, rfl, rfl, by decide⟩, ⟨inv_of_check (by decide), rfl, rfl⟩,
    inv_of_check (by decide)⟩

theorem witness_latchesHoldUntilTheNextAcceptance :
    ∃ t, (bench.present 0x20201234#32).rst = 0 ∧ step (bench.present 0x20201234#32) = .next t ∧ t.op ≠ bench.op :=
  ⟨_, rfl, rfl, by decide⟩

theorem witness_portIsIgnoredWhileBusy :
    polling.stBusy = true ∧ polling.rst = 0 ∧ ∃ t, step polling = .next t := ⟨rfl, rfl, _, rfl⟩

/-- A stall inside a transfer, and a step outside one. -/
theorem witness_dataInIsReadOnlyByPulses :
    let s := { polling with clock := .script [false] true }
    (s.clock.answer s.draws = false ∧ ∃ t, step s = .next t) ∧ bench.seq ≠ .shift ∧ ∃ t, step bench = .next t :=
  ⟨⟨rfl, _, rfl⟩, by decide, _, rfl⟩

theorem witness_stepKeepsParametersAndMemoryForm :
    let s := { bench with device := .fixture store }
    s.device.wf ∧ ∃ t, step s = .next t := by
  refine ⟨?_, _, rfl⟩
  show Memory.wf _
  decide

/-- Each write command answers a next state; a poll whose eighth edge stores, and a register it does not store in. -/
theorem witness_writeCommandsFrame :
    let f : Fixture := { pos := 2, cmd := 0x0A#8, ptr := 0x40#8, edges := 7 }
    let s := { inPhase (.wr8 0x40#8 0x0045#16) .shift with idx := 2#17, bitcnt := 7#4, device := .fixture f }
    (∃ t, exec (.init 0x00#8 0x0000#16) s = .next t) ∧ (∃ t, exec (.wr8 0x40#8 0x0045#16) s = .next t) ∧
    (∃ t, exec (.wr16 0x40#8 0x0045#16) s = .next t) ∧ s.seq = .shift ∧ s.xdone = false ∧
    s.device.storeAddr = some 0x40 ∧ s.device.storeAddr ≠ some 0x41 :=
  ⟨⟨_, rfl⟩, ⟨_, rfl⟩, ⟨_, rfl⟩, rfl, rfl, by decide, by decide⟩

/-- Each read command answers a next state, one that writes RDATA among them. -/
theorem witness_readCommandsFrame :
    (∃ t, exec (.rd8 0x08#8 0x0000#16) (done (.rd8 0x08#8 0x0000#16) 2#17 0x3C#8) = .next t ∧ t.rdata ≠ 0x0000#16) ∧
    ∃ t, exec (.rd16 0x0E#8 0x0000#16) (done (.rd16 0x0E#8 0x0000#16) 3#17 0x12#8) = .next t ∧ t.rdata ≠ 0x0000#16 :=
  ⟨⟨_, rfl, by decide⟩, _, rfl, by decide⟩

/-- Each streaming command answers a next state, one that writes the stream port. -/
theorem witness_streamCommandsFrame :
    (∃ t, exec (.rdfifo 0x00#8 0x0001#16) (done (.rdfifo 0x00#8 0x0001#16) 1#17 0x7E#8) = .next t ∧ t.sb ≠ none) ∧
    ∃ t, exec (.rdburst 0x0E#8 0x0001#16) (done (.rdburst 0x0E#8 0x0001#16) 2#17 0x7E#8) = .next t ∧ t.sb ≠ none :=
  ⟨⟨_, rfl, by decide⟩, _, rfl, by decide⟩

/-- The last byte of RD8's frame, a device that answers `0x3C`. -/
theorem witness_transferMovesOneByte :
    let i : Instr := .rd8 0x08#8 0x0000#16
    let s := { inPhase i .load with idx := 2#17, device := .script (bitsOf 0x3C#8 ++ [true]) }
    s.seq = .load ∧ s.rst = 0 ∧ s.params.wellFormed = true ∧ s.inFlight = some i ∧ s.inited = true ∧ s.sclk = false ∧
      s.clock = .script [] true ∧ (frameOf i s.params.dummy)[s.idx.toNat]? = some 0x00#8 ∧
      s.device = .script (bitsOf 0x3C#8 ++ [true]) := by decide

theorem witness_transferPinTrace :
    let i : Instr := .wr8 0x00#8 0x0000#16
    let s := { inPhase i .load with device := .script ([true, true, true, true, true, true, true, true] ++ []) }
    s.seq = .load ∧ s.rst = 0 ∧ s.params.wellFormed = true ∧ s.inFlight = some i ∧ s.inited = true ∧ s.sclk = false ∧
      s.clock = .script [] true ∧ (frameOf i s.params.dummy)[s.idx.toNat]? = some 0x0A#8 ∧
      s.device = .script ([true, true, true, true, true, true, true, true] ++ []) := by decide

/-- V9's answers. -/
theorem witness_stallsChangeNothing :
    let i : Instr := .wr8 0x00#8 0x0000#16
    let s := inPhase i .load
    let answers := [false, true, false, false, true, true, true, true, true, true, false, true]
    s.seq = .load ∧ s.rst = 0 ∧ s.params.timeout = none ∧ s.inFlight = some i ∧ s.inited = true ∧ s.sclk = false ∧
      s.device ≠ .oracle ∧ s.idx.toNat < s.frameLength ∧ answers.count true = 8 ∧ answers.getLast? = some true := by decide

/-- V79. -/
theorem witness_stalledClockHangs :
    let s : State :=
      { inPhase (.wr8 0x1F#8 0x0052#16) .shift with idx := 2#17, bitcnt := 7#4, clock := .script [] false }
    (s.seq = .shift ∧ s.xdone = false ∧ s.rst = 0 ∧ s.params.timeout = none ∧ s.inFlight.isSome = true ∧
      s.clock = .script [] false) ∧ s.Inv := ⟨by decide, inv_of_check (by decide)⟩

/-- A ready block with a command presented; INIT from reset needs no INITED. -/
theorem witness_commandRunsToItsResponse :
    (({ bench with cmds := [encode (.rd16 0x0E#8 0x0000#16)] } : State).Ready ∧ bench.neverStalls ∧ bench.inited = true) ∧
    ({ State.reset with clock := .script [] true, cmds := [encode (.init 0x00#8 0x0000#16)] } : State).Ready ∧
    (Instr.init 0x00#8 0x0000#16).opcode = 0x0#4 :=
  ⟨⟨⟨rfl, rfl, rfl, rfl, rfl⟩, rfl, rfl⟩, ⟨rfl, rfl, rfl, rfl, rfl⟩, rfl⟩

/-- V38's device. -/
theorem witness_receivedBytesAreTheDevices :
    let i : Instr := .rd16 0x0E#8 0x0000#16
    let ins : List Byte := [0x00#8, 0x00#8, 0x34#8, 0x12#8]
    let s := { bench with cmds := [encode i], device := .script (ins.flatMap bitsOf ++ [true]) }
    s.Ready ∧ s.neverStalls ∧ s.cmds = [encode i] ∧ s.inited = true ∧ ins.length = (frameOf i s.params.dummy).length ∧
      s.device = .script (ins.flatMap bitsOf ++ [true]) :=
  ⟨⟨rfl, rfl, rfl, rfl, rfl⟩, rfl, rfl, rfl, rfl, rfl⟩

theorem witness_commandEndsUnderAClk :
    let i : Instr := .rdburst 0x0E#8 0x0006#16
    let s := { bench with cmds := [encode i], clock := .script [false, true, false] true }
    s.Ready ∧ s.params.timeout = none ∧ s.clock = .script [false, true, false] true ∧ s.cmds = [encode i] ∧
      s.inited = true := ⟨⟨rfl, rfl, rfl, rfl, rfl⟩, rfl, rfl, rfl, rfl⟩

/-- INIT from reset, and P8's address, where the second byte wraps, on a fixture with a register set. -/
theorem witness_writesStoreInTheFixture :
    let w (i : Instr) : State := { bench with cmds := [encode i], device := .fixture store }
    let first : State :=
      { State.reset with clock := .script [] true, cmds := [encode (.init 0x00#8 0x0000#16)], device := .fixture store }
    first.Ready ∧ first.neverStalls ∧ first.device = .fixture store ∧ Memory.wf store.regs ∧
      (w (.wr8 0xFF#8 0xABCD#16)).Ready ∧ (w (.wr16 0xFF#8 0xABCD#16)).Ready ∧ bench.neverStalls ∧ bench.inited = true :=
  ⟨⟨rfl, rfl, rfl, rfl, rfl⟩, rfl, rfl, by decide, ⟨rfl, rfl, rfl, rfl, rfl⟩, ⟨rfl, rfl, rfl, rfl, rfl⟩, rfl, rfl⟩

theorem witness_readsLeaveTheFixtureRegisters :
    let i : Instr := .rdfifo 0x00#8 0x0000#16
    let s : State := { bench with cmds := [encode i], device := .fixture store }
    s.Ready ∧ s.neverStalls ∧ s.inited = true ∧ s.device = .fixture store ∧ s.cmds = [encode i] ∧ 3 ≤ i.opcode.toNat ∧
      3 ≤ (Instr.rd8 0x08#8 0x0000#16).opcode.toNat :=
  ⟨⟨rfl, rfl, rfl, rfl, rfl⟩, rfl, rfl, rfl, rfl, by decide, by decide⟩

/-- P2's commands at the address where the 16-bit value wraps. -/
theorem witness_roundTripThroughTheFixture :
    let c8 := [encode (.wr8 0xFF#8 0x0045#16), encode (.rd8 0xFF#8 0x0000#16)]
    let c16 := [encode (.wr16 0xFF#8 0xBEEF#16), encode (.rd16 0xFF#8 0x0000#16)]
    let s : State := { bench with cmds := c8, device := .fixture store }
    let r : State := { bench with cmds := c16, device := .fixture store }
    s.Ready ∧ r.Ready ∧ s.neverStalls ∧ s.inited = true ∧ s.device = .fixture store ∧ Memory.wf store.regs ∧
      s.cmds = c8 ∧ r.cmds = c16 :=
  ⟨⟨rfl, rfl, rfl, rfl, rfl⟩, ⟨rfl, rfl, rfl, rfl, rfl⟩, rfl, rfl, rfl, by decide, rfl, rfl⟩

end Sys2Proof.Tests
end

section
/-! The laws of POLLS along a step (10_state.md R15): its shape under the invariant, and what a reset, a load and a counted
poll make of its number. -/

namespace Sys2Proof.Machine

section
variable {s : State} {n : Nat}

/-- POLLS as a number looks at the counter alone. -/
theorem pollCount_of_polls {t : State} (h : t.polls = s.polls) : t.pollCount = s.pollCount := by
  rw [State.pollCount, h, State.pollCount]

theorem pollCount_of_counter {c : PollCounter} (h : s.polls = some c) : s.pollCount = c.count.toNat := by
  rw [State.pollCount, h]

/-! ## The shape of the counter -/

/-- Without a TIMEOUT there is no counter. -/
theorem polls_absent (hInv : s.Inv) (ht : s.params.timeout = none) : s.polls = none := by
  have shape := hInv.pollsShape
  rwa [ht, Option.map_none, Option.map_eq_none_iff] at shape

/-- With a TIMEOUT there is one, of the width TIMEOUT asks for. -/
theorem polls_present (hInv : s.Inv) (ht : s.params.timeout = some n) :
    ∃ c, s.polls = some c ∧ c.width = pollWidth n := by
  have shape := hInv.pollsShape
  rwa [ht, Option.map_some, Option.map_eq_some_iff] at shape

/-- A configuration the model runs has no TIMEOUT of 0 (40_shift_engine.md R88, U10). -/
theorem timeout_ne_zero {p : Params} (hc : p.wellFormed = true) (ht : p.timeout = some n) : n ≠ 0 := by
  have hn : 8 ≤ n := by simpa [Params.wellFormed, ht] using hc
  omega

/-! ## The counter after a step -/

/-- Short of TIMEOUT one more poll fits the counter's width, so counting it does not wrap. -/
theorem pollCount_countPoll (hInv : s.Inv) (hc : s.params.wellFormed = true) (ht : s.params.timeout = some n)
    (hne : s.pollCount ≠ n) : (countPoll s).pollCount = s.pollCount + 1 := by
  obtain ⟨c, hp, hw⟩ := polls_present hInv ht
  have hle : s.pollCount ≤ n := hInv.pollsBound n ht
  have hfit : n < 2 ^ c.width := hw ▸ (pollWidth_least n (timeout_ne_zero hc ht)).1
  rw [pollCount_of_counter hp] at hle hne ⊢
  have hcounted : (countPoll s).polls = some (c.plus 1) := by rw [countPoll, hp, Option.map_some]
  rw [pollCount_of_counter hcounted, PollCounter.plus_one c (by omega)]

/-- The clock source's answer, pulse or stall, leaves POLLS alone. -/
@[simp] theorem pollClock_polls (s : State) : (pollClock s).polls = s.polls := by
  unfold pollClock
  split
  · rw [pulse_polls]
  · rfl

/-- A load with a frame byte due steps to a fresh counter. -/
theorem step_load_polls (hInv : s.Inv) (hc : s.params.wellFormed = true) (hr : s.rst = 0) (hl : s.seq = .load) :
    ∃ t, step s = .next t ∧ t.polls = freshPolls s.params := by
  have hb : s.stBusy = true := by simp [State.stBusy, hl]
  obtain ⟨i, hi⟩ := Option.isSome_iff_exists.mp (hInv.latched hb)
  have hidx : s.idx.toNat < (frameOf i s.params.dummy).length := by
    simpa [State.frameLength, hi] using hInv.indexed (.inl hl)
  have hload := exec_load (s := quiet s) hl (List.getElem?_eq_getElem hidx)
  exact ⟨_, (step_busy hc hr hb hi).trans hload, xferLoad_polls _ (quiet s)⟩

/-- A poll short of TIMEOUT counts itself, whatever the clock source answers. -/
theorem step_poll_counted (hInv : s.Inv) (hc : s.params.wellFormed = true) (hr : s.rst = 0) (hs : s.seq = .shift)
    (hx : s.xdone = false) (ht : s.params.timeout = some n) (hne : s.pollCount ≠ n) :
    step s = .next (pollClock (countPoll (quiet s))) := by
  have hb : s.stBusy = true := by simp [State.stBusy, hs]
  obtain ⟨i, hi⟩ := Option.isSome_iff_exists.mp (hInv.latched hb)
  rw [step_busy hc hr hb hi, exec_poll (s := quiet s) hs hx]
  have htq : (quiet s).params.timeout = some n := ht
  have hneq : (quiet s).pollCount ≠ n := hne
  simp only [xferPoll, htq, if_neg hneq]

end

/-- Settles O41: the shape of POLLS is the invariant's, a reset and a load make it fresh, and a poll short of TIMEOUT has
room to count. -/
theorem pollsCountsThePolls : Obligations.PollsCountsThePolls := by
  intro s hInv hc
  refine ⟨polls_absent hInv, fun n ht => ⟨?shape, ?reset, ?load, ?poll⟩⟩
  case shape =>
    obtain ⟨c, hp, hw⟩ := polls_present hInv ht
    obtain ⟨hfit, hleast⟩ := pollWidth_least n (timeout_ne_zero hc ht)
    exact ⟨c, hp, pollCount_of_counter hp, hw ▸ hfit, hw ▸ hleast⟩
  case reset =>
    intro hr
    exact ⟨applyReset s, step_reset hc hr, pollCount_fresh (p := s.params) rfl⟩
  case load =>
    intro hr hl
    obtain ⟨t, hstep, hfresh⟩ := step_load_polls hInv hc hr hl
    exact ⟨t, hstep, pollCount_fresh hfresh⟩
  case poll =>
    intro hr hs hx hne
    refine ⟨_, step_poll_counted hInv hc hr hs hx ht hne, ?_⟩
    calc (pollClock (countPoll (quiet s))).pollCount
        = (countPoll s).pollCount := pollCount_of_polls (pollClock_polls _)
      _ = s.pollCount + 1 := pollCount_countPoll hInv hc ht hne

end Sys2Proof.Machine
end

section
/-! The command port in a busy block (20_memory.md R53): no operation of an engine step in flight reads or writes the words
the host holds. Each lemma says that the operation commutes with the host presenting other words `ws`. -/

namespace Sys2Proof.Machine

section
variable {s t : State} {i : Instr} (ws : List Word)

/-! ## The operations with more than one case -/

theorem pollClock_with_cmds (s : State) : pollClock { s with cmds := ws } = { pollClock s with cmds := ws } := by
  unfold pollClock
  dsimp only
  split
  · rfl
  · rfl

/-- The Timeout fault and the poll it bounds look at POLLS and the parameters, not at the port. -/
theorem xferPoll_with_cmds (s : State) : xferPoll { s with cmds := ws } = { xferPoll s with cmds := ws } := by
  have hcount : State.pollCount { s with cmds := ws } = s.pollCount := rfl
  unfold xferPoll
  dsimp only
  rw [hcount]
  split
  · exact pollClock_with_cmds ws s
  · split
    · rfl
    · exact pollClock_with_cmds ws (countPoll s)

theorem xferCollect_with_cmds (c : Command) (s : State) :
    xferCollect c { s with cmds := ws } = { xferCollect c s with cmds := ws } := by
  unfold xferCollect
  dsimp only
  cases c.route s.idx.toNat with
  | drop => rfl
  | rdataZext => rfl
  | rdataHigh => rfl
  | stream => rfl

/-! ## The engine step -/

/-- An engine step of a command in flight, in every phase from SEL to RESP, is the same whatever the host presents. -/
theorem exec_with_cmds (hb : s.stBusy = true) (h : exec i s = .next t) :
    exec i { s with cmds := ws } = .next { t with cmds := ws } := by
  rcases exec_next h with ⟨hs, -⟩ | ⟨hs, rfl⟩ | ⟨hs, b, hframe, rfl⟩ | ⟨hs, hx, rfl⟩ | ⟨hs, hx, rfl⟩ | ⟨hs, rfl⟩ |
    ⟨hs, rfl⟩ | ⟨hs, -⟩
  · simp [State.stBusy, hs] at hb
  · exact exec_sel hs
  · exact exec_load hs hframe
  · rw [← xferPoll_with_cmds]
    exact exec_poll hs hx
  · rw [← xferCollect_with_cmds]
    exact exec_collect hs hx
  · exact exec_desel hs
  · exact exec_resp hs
  · simp [State.stBusy, hs] at hb

/-- A step of a busy block with reset released runs the command in flight. -/
theorem step_busy_next (hb : s.stBusy = true) (hr : s.rst = 0) (h : step s = .next t) :
    s.params.wellFormed = true ∧ ∃ i, s.inFlight = some i ∧ exec i (quiet s) = .next t := by
  obtain ⟨hc, ⟨hpos, -⟩ | ⟨-, ⟨hs, -⟩ | ⟨hs, -⟩ | ⟨hs, -⟩ | ⟨-, hrun⟩⟩⟩ := step_next h
  · omega
  · simp [State.stBusy, hs] at hb
  · simp [State.stBusy, hs] at hb
  · simp [State.stBusy, hs] at hb
  · exact ⟨hc, hrun⟩

theorem step_with_cmds (hb : s.stBusy = true) (hr : s.rst = 0) (h : step s = .next t) :
    step { s with cmds := ws } = .next { t with cmds := ws } := by
  obtain ⟨hc, i, hi, hexec⟩ := step_busy_next hb hr h
  calc step { s with cmds := ws }
      = exec i { quiet s with cmds := ws } := step_busy (s := { s with cmds := ws }) hc hr hb hi
    _ = .next { t with cmds := ws } := exec_with_cmds (s := quiet s) ws hb hexec

end

/-- Settles O43: the step commutes with the host presenting other words; with the words it holds already, that says they
are kept. -/
theorem portIsIgnoredWhileBusy : Obligations.PortIsIgnoredWhileBusy := by
  intro s t ws hb hr h
  have hsame : step s = .next { t with cmds := s.cmds } := step_with_cmds s.cmds hb hr h
  have hkept : t = { t with cmds := s.cmds } := by rwa [h, Host.Outcome.next.injEq] at hsame
  exact ⟨by rw [hkept], step_with_cmds ws hb hr h⟩

end Sys2Proof.Machine
end

section
/-! The wire layer of a command (30_encoding.md R66, R70): the bytes of each command's frame, the positions whose received
byte it keeps, and the delivery of a byte that is not kept. -/

namespace Sys2Proof.Machine

section
variable (a d : Byte) (v : Half) (k : Nat)

/-! ## The frames -/

@[simp] theorem frameOf_wr8 : frameOf (.wr8 a v) d = [0x0A#8, a, v.extractLsb' 0 8] := rfl

@[simp] theorem frameOf_wr16 : frameOf (.wr16 a v) d = [0x0A#8, a, v.extractLsb' 0 8, v.extractLsb' 8 8] := rfl

@[simp] theorem frameOf_rd8 : frameOf (.rd8 a v) d = [0x0B#8, a, d] := rfl

@[simp] theorem frameOf_rd16 : frameOf (.rd16 a v) d = [0x0B#8, a, d, d] := rfl

@[simp] theorem frameOf_rdfifo : frameOf (.rdfifo a v) d = 0x0D#8 :: List.replicate v.toNat d := rfl

@[simp] theorem frameOf_rdburst : frameOf (.rdburst a v) d = 0x0B#8 :: a :: List.replicate v.toNat d := rfl

@[simp] theorem frameOf_init : frameOf (.init a v) d = [0x0A#8, 0x1F#8, 0x52#8] := rfl

/-- The soft-reset exchange is the register write of `0x52` to `0x1F`: its value byte is the low byte of `0x0052`. -/
theorem frameOf_init_eq_wr8 : frameOf (.init a v) d = frameOf (.wr8 0x1F#8 0x0052#16) d := by
  have hlow : (0x0052#16).extractLsb' 0 8 = 0x52#8 := by decide
  rw [frameOf_init, frameOf_wr8, hlow]

/-- Every frame begins with its wire command byte. -/
theorem frameOf_ne_nil (i : Instr) : frameOf i d ≠ [] := by
  cases i with
  | init a v | wr8 a v | wr16 a v | rd8 a v | rd16 a v | rdfifo a v | rdburst a v => exact List.cons_ne_nil _ _

/-! ## The kept positions -/

/-- A byte routed somewhere under one condition and dropped otherwise is kept exactly under it. -/
theorem kept_ite_drop {p : Prop} [Decidable p] {r : Route} (hr : r.kept = true) :
    (if p then r else Route.drop).kept = true ↔ p := by
  split
  · next hp => exact iff_of_true hr hp
  · next hp => exact iff_of_false Bool.false_ne_true hp

@[simp] theorem routeNone_kept : (routeNone k).kept = false := rfl

@[simp] theorem routeRd8_kept : (routeRd8 k).kept = true ↔ k = 2 := kept_ite_drop rfl

@[simp] theorem routeFifo_kept : (routeFifo k).kept = true ↔ 1 ≤ k := kept_ite_drop rfl

@[simp] theorem routeBurst_kept : (routeBurst k).kept = true ↔ 2 ≤ k := kept_ite_drop rfl

/-- The low byte at position 2, then the high byte at position 3. -/
@[simp] theorem routeRd16_kept : (routeRd16 k).kept = true ↔ k = 2 ∨ k = 3 := by
  unfold routeRd16
  split
  · next h => exact iff_of_true rfl (.inl h)
  · next h => rw [kept_ite_drop rfl, or_iff_right h]

/-! ## Delivery -/

@[simp] theorem deliver_drop (b : Byte) (s : State) : deliver .drop b s = s := rfl

/-- Only the route that drops a byte does not keep it. -/
theorem kept_eq_false_iff {r : Route} : r.kept = false ↔ r = .drop := by
  cases r with
  | drop => exact iff_of_true rfl rfl
  | rdataZext | rdataHigh | stream => exact iff_of_false nofun nofun

end

/-- Settles O4: the frame of each command by its own equation; none is empty, since each begins with a command byte. -/
theorem wireFrames : Obligations.WireFrames := by
  intro a v d
  exact ⟨frameOf_wr8 a d v, frameOf_wr16 a d v, frameOf_rd8 a d v, frameOf_rd16 a d v, frameOf_rdfifo a d v,
    frameOf_rdburst a d v, frameOf_init_eq_wr8 a d v, frameOf_init a d v, frameOf_ne_nil d⟩

/-- Settles O5: the kept positions are those of each command's route, and a byte that is not kept is one that is dropped. -/
theorem keptPositions : Obligations.KeptPositions := by
  refine ⟨fun i d k => ?positions, fun r b s hr => ?dropped⟩
  case positions =>
    cases i with
    | init a v | wr8 a v | wr16 a v => exact iff_of_false (Bool.eq_false_iff.mp (routeNone_kept k)) id
    | rd8 a v => exact routeRd8_kept k
    | rd16 a v => exact routeRd16_kept k
    | rdfifo a v => exact routeFifo_kept k
    | rdburst a v => exact routeBurst_kept k
  case dropped => rw [kept_eq_false_iff.mp hr, deliver_drop]

end Sys2Proof.Machine
end

section
/-! The shift engine between two bytes and under a stalled clock source: what a collect writes (40_shift_engine.md R89), and
the hang of a transfer whose polls are never answered true (R92). -/

namespace Sys2Proof.Machine

section
variable {s : State} {n : Nat}

/-! ## Collect -/

@[simp] theorem xferCollect_idx (c : Command) (s : State) : (xferCollect c s).idx = s.idx + 1#17 := rfl

@[simp] theorem xferCollect_seq (c : Command) (s : State) :
    (xferCollect c s).seq = if (s.idx + 1#17).toNat = c.frame.length then .desel else .load := rfl

/-- Outside IDX and SEQ a collect is the delivery of the byte in SR. -/
theorem xferCollect_frame (c : Command) (s : State) :
    xferCollect c s = { deliver (c.route s.idx.toNat) s.sr s with
      idx := (xferCollect c s).idx, seq := (xferCollect c s).seq } := rfl

/-! ## Stalls -/

/-- Without a TIMEOUT a poll is the clock source's part alone. -/
theorem xferPoll_untimed (ht : s.params.timeout = none) : xferPoll s = pollClock s := by
  simp only [xferPoll, ht]

/-- A poll answered false costs one answer and changes nothing in the block. -/
theorem pollClock_stall (ha : s.clock.answer s.draws = false) :
    pollClock s = { s with clock := s.clock.advance, draws := s.draws + 1 } := by
  simp [pollClock, ha]

/-- A transfer that hangs: bits are missing, there is no TIMEOUT to end it, and the clock source answers false for ever. -/
structure Hung (s : State) : Prop where
  shifting : s.seq = .shift
  unfinished : s.xdone = false
  released : s.rst = 0
  untimed : s.params.timeout = none
  latched : s.inFlight.isSome = true
  stuck : s.clock = .script [] false

/-- The state `n` stalls later: the output ports are silent and the polls went by. -/
def afterStalls (n : Nat) (s : State) : State := { quiet s with draws := s.draws + n }

theorem afterStalls_afterStalls (m n : Nat) (s : State) :
    afterStalls n (afterStalls m s) = afterStalls (m + n) s := by
  simp only [afterStalls, quiet, Nat.add_assoc]

/-- A stall leaves the transfer hung. -/
theorem Hung.stays (h : Hung s) (n : Nat) : Hung (afterStalls n s) :=
  ⟨h.shifting, h.unfinished, h.released, h.untimed, h.latched, h.stuck⟩

/-- One step of a hung transfer is one stall. -/
theorem Hung.step_eq (h : Hung s) : step s = .next (afterStalls 1 s) := by
  obtain ⟨i, hi⟩ := Option.isSome_iff_exists.mp h.latched
  have hconfig : s.params.wellFormed = true := by simp [Params.wellFormed, h.untimed]
  have hbusy : s.stBusy = true := by simp [State.stBusy, h.shifting]
  have hanswer : (quiet s).clock.answer (quiet s).draws = false := by rw [quiet_clock, h.stuck, Clock.answer]
  have hadvance : s.clock.advance = s.clock := by rw [h.stuck, Clock.advance]
  calc step s
      = exec i (quiet s) := step_busy hconfig h.released hbusy hi
    _ = .next (xferPoll (quiet s)) := exec_poll (s := quiet s) h.shifting h.unfinished
    _ = .next (pollClock (quiet s)) := by rw [xferPoll_untimed (s := quiet s) h.untimed]
    _ = .next (afterStalls 1 s) := by
      rw [pollClock_stall hanswer, quiet_clock, hadvance]
      rfl

/-- Any positive number of steps of a hung transfer is that many stalls. -/
theorem Hung.runFor_succ (h : Hung s) : runFor (n + 1) s = .next (afterStalls (n + 1) s) := by
  induction n generalizing s with
  | zero => rw [runFor_succ_of_next h.step_eq, runFor]
  | succ n ih => rw [runFor_succ_of_next h.step_eq, ih (h.stays 1), afterStalls_afterStalls, Nat.add_comm 1]

/-- Inside a transfer chip-select is asserted. -/
theorem csN_of_shift (hInv : s.Inv) (hs : s.seq = .shift) : s.csN = false := by
  simp [hInv.framed, State.inFrame, hs]

end

/-- Settles O11: in SHIFT with XDONE set exec is the collect, whose fields are read off. -/
theorem everyCommandCollects : Obligations.EveryCommandCollects := by
  intro i s hs hx
  have hcollect := exec_collect (i := i) hs hx
  exact ⟨_, hcollect, xferCollect_idx _ s, xferCollect_seq _ s, xferCollect_frame _ s⟩

/-- Settles O52: a hung transfer stays hung, and its stalls touch neither the block nor the host's words. -/
theorem stalledClockHangs : Obligations.StalledClockHangs := by
  intro s n hs hx hr ht hi hclock
  have hbusy : s.stBusy = true := by simp [State.stBusy, hs]
  have hport : s.cmdReady = false := by simp [State.cmdReady, hs]
  have hcs : s.Inv → s.csN = false := fun hInv => csN_of_shift hInv hs
  cases n with
  | zero => exact ⟨s, rfl, hs, hx, rfl, hbusy, hport, rfl, rfl, nofun, hcs⟩
  | succ n =>
    have hung : Hung s := ⟨hs, hx, hr, ht, hi, hclock⟩
    exact ⟨_, hung.runFor_succ, hs, hx, rfl, hbusy, hport, rfl, rfl, fun _ => rfl, hcs⟩

end Sys2Proof.Machine
end

section
/-! Chip-select framing (41_cs_framing.md R104): which phases hold a frame open, and what one engine step can do to
chip-select and the frame. -/

namespace Sys2Proof.Machine

section
variable {s t : State} {i : Instr}

/-! ## The phases of a frame -/

/-- The phases with an open frame. -/
theorem inFrame_iff : s.inFrame = true ↔ s.seq = .load ∨ s.seq = .shift ∨ s.seq = .desel := by
  simp [State.inFrame, or_assoc]

/-- The phases without one. -/
theorem not_inFrame_iff :
    s.inFrame = false ↔ s.seq = .idle ∨ s.seq = .sel ∨ s.seq = .resp ∨ s.seq = .fault := by
  cases hs : s.seq <;> simp [State.inFrame, hs]

/-- Under the invariant chip-select is high while the block is idle. -/
theorem csN_of_idle (hInv : s.Inv) (hs : s.seq = .idle) : s.csN = true := by
  rw [hInv.framed, not_inFrame_iff.mpr (.inl hs), Bool.not_false]

/-! ## The operations with more than one case -/

@[simp] theorem pollClock_csN (s : State) : (pollClock s).csN = s.csN := by
  unfold pollClock
  split
  · rw [pulse_csN]
  · rfl

@[simp] theorem pollClock_seq (s : State) : (pollClock s).seq = s.seq := by
  unfold pollClock
  split
  · rw [pulse_seq]
  · rfl

@[simp] theorem deliver_csN (r : Route) (b : Byte) (s : State) : (deliver r b s).csN = s.csN := by
  cases r with
  | drop | rdataZext | rdataHigh | stream => rfl

@[simp] theorem xferCollect_csN (c : Command) (s : State) : (xferCollect c s).csN = s.csN :=
  deliver_csN (c.route s.idx.toNat) s.sr s

/-- A collect goes on to the next byte or to DESELECT, with the frame open either way. -/
@[simp] theorem xferCollect_inFrame (c : Command) (s : State) : (xferCollect c s).inFrame = true := by
  rw [inFrame_iff, xferCollect_seq]
  split
  · exact .inr (.inr rfl)
  · exact .inl rfl

/-- Acceptance leaves chip-select high and opens no frame, whether it latches the command or raises NotInit. -/
theorem acceptOf_framing (i : Instr) (hcs : s.csN = true) :
    (acceptOf i s).csN = true ∧ (acceptOf i s).inFrame = false := by
  rcases acceptOf_cases i s with ⟨-, ht⟩ | ⟨-, -, ht⟩ | ⟨-, -, ht⟩ <;> rw [ht]
  · exact ⟨rfl, rfl⟩
  · exact ⟨hcs, rfl⟩
  · exact ⟨rfl, rfl⟩

/-! ## The engine step -/

/-- What an engine step from `s` to `t` with reset released can do to chip-select and the frame: leave both alone, or be
one of the three that move chip-select. -/
inductive FramingStep (s t : State) : Prop
  /-- Chip-select holds its level, and the frame stays open or stays closed. -/
  | keeps (level : t.csN = s.csN) (frame : t.inFrame = s.inFrame)
  /-- SELECT (R100). -/
  | selects (before : s.seq = .sel) (after : t.seq = .load) (level : t.csN = false)
  /-- DESELECT (R101). -/
  | deselects (before : s.seq = .desel) (after : t.seq = .resp) (level : t.csN = true)
  /-- The Timeout fault (60_exceptions.md R152, R156). -/
  | timesOut (before : s.seq = .shift) (after : t.seq = .fault) (code : t.err = BusFault.timeout.code)
      (level : t.csN = true)

/-- A poll is the Timeout fault, or it moves at most the clock and the data. -/
theorem xferPoll_framing (hs : s.seq = .shift) : FramingStep s (xferPoll s) := by
  rcases xferPoll_cases s with ⟨-, ht⟩ | ⟨-, ht⟩ <;> rw [ht]
  · exact .timesOut hs rfl rfl rfl
  · exact .keeps (pollClock_csN _) (by simp [State.inFrame])

/-- An engine step of a command in flight. -/
theorem exec_framing (hb : s.stBusy = true) (h : exec i s = .next t) : FramingStep s t := by
  rcases exec_next h with ⟨hs, -⟩ | ⟨hs, rfl⟩ | ⟨hs, b, -, rfl⟩ | ⟨hs, -, rfl⟩ | ⟨hs, -, rfl⟩ | ⟨hs, rfl⟩ |
    ⟨hs, rfl⟩ | ⟨hs, -⟩
  · simp [State.stBusy, hs] at hb
  · exact .selects hs rfl rfl
  · exact .keeps rfl (by rw [inFrame_iff.mpr (.inl hs)]; rfl)
  · exact xferPoll_framing hs
  · exact .keeps (xferCollect_csN _ s) (by rw [xferCollect_inFrame, inFrame_iff.mpr (.inr (.inl hs))])
  · exact .deselects hs rfl rfl
  · exact .keeps rfl (by rw [not_inFrame_iff.mpr (.inr (.inr (.inl hs)))]; rfl)
  · simp [State.stBusy, hs] at hb

/-- Clearing the output ports first changes neither chip-select nor the phase. -/
theorem FramingStep.of_quiet (h : FramingStep (quiet s) t) : FramingStep s t := by
  cases h with
  | keeps level frame => exact .keeps level frame
  | selects before after level => exact .selects before after level
  | deselects before after level => exact .deselects before after level
  | timesOut before after code level => exact .timesOut before after code level

/-- Every engine step from a state with the invariant is a reset or one of the steps of `FramingStep`. -/
theorem step_framing (hInv : s.Inv) (h : step s = .next t) : (0 < s.rst ∧ t = applyReset s) ∨ FramingStep s t := by
  obtain ⟨-, hreset | ⟨-, ⟨-, rfl⟩ | ⟨-, -, rfl⟩ | ⟨hs, w, ws, -, haccept⟩ | ⟨hb, i, -, hexec⟩⟩⟩ := step_next h
  · exact .inl hreset
  · exact .inr (.keeps rfl rfl)
  · exact .inr (.keeps rfl rfl)
  · have hcs : s.csN = true := csN_of_idle hInv hs
    have hclosed : s.inFrame = false := not_inFrame_iff.mpr (.inl hs)
    suffices hkept : t.csN = true ∧ t.inFrame = false from
      .inr (.keeps (hkept.1.trans hcs.symm) (hkept.2.trans hclosed.symm))
    obtain ⟨e, -, rfl⟩ | ⟨i, -, rfl⟩ := haccept
    · exact ⟨rfl, rfl⟩
    · exact acceptOf_framing i hcs
  · exact .inr (exec_framing (s := quiet s) hb hexec).of_quiet

/-- Chip-select is low exactly inside a frame after every step of `FramingStep` that starts so. -/
theorem FramingStep.framed (h : FramingStep s t) (hs : s.csN = !s.inFrame) : t.csN = !t.inFrame := by
  cases h with
  | keeps level frame => rw [level, frame, hs]
  | selects _ after level => rw [level, inFrame_iff.mpr (.inl after), Bool.not_true]
  | deselects _ after level => rw [level, not_inFrame_iff.mpr (.inr (.inr (.inl after))), Bool.not_false]
  | timesOut _ after _ level => rw [level, not_inFrame_iff.mpr (.inr (.inr (.inr after))), Bool.not_false]

/-- Every step keeps the framing part of the invariant, reset among them. -/
theorem step_framed (hInv : s.Inv) (h : step s = .next t) : t.csN = !t.inFrame := by
  obtain ⟨-, rfl⟩ | hstep := step_framing hInv h
  · rfl
  · exact hstep.framed hInv.framed

end

/-- Settles O37: the levels are the framing part of the invariant, which every step keeps; the steps that move chip-select
are reset and those of `FramingStep` that do not keep it. -/
theorem chipSelectFraming : Obligations.ChipSelectFraming := by
  intro s t hInv h
  have hframed : t.csN = !t.inFrame := step_framed hInv h
  refine ⟨fun hs => ?high, fun hs => ?low, fun hmoved => ?moved⟩
  case high => rw [hframed, not_inFrame_iff.mpr hs, Bool.not_false]
  case low => rw [hframed, inFrame_iff.mpr hs, Bool.not_true]
  case moved =>
    obtain ⟨hr, -⟩ | hstep := step_framing hInv h
    · exact .inl hr
    cases hstep with
    | keeps level _ => exact absurd level hmoved
    | selects before after _ => exact .inr (.inl ⟨before, after⟩)
    | deselects before after _ => exact .inr (.inr (.inl ⟨before, after⟩))
    | timesOut before after code _ => exact .inr (.inr (.inr ⟨before, after, code⟩))

end Sys2Proof.Machine
end

section
/-! The register protocol (42_register_protocol.md): how a 16-bit value is split into frame bytes and joined from them (R130,
R131), what a step makes of a presented word (R134), and the response a command ends with (R136). -/

namespace Sys2Proof.Machine

section
variable (a b0 b1 : Byte) (v : Half)

/-! ## Splitting and joining -/

/-- Joining two bytes is `low_byte | (high_byte << 8)` (R130). -/
theorem joinBytes_eq_or : joinBytes b0 b1 = b0.setWidth 16 ||| (b1.setWidth 16 <<< 8) :=
  calc joinBytes b0 b1
      = (b1 ++ b0).setWidth 16 := (BitVec.setWidth_eq _).symm
    _ = b1.setWidth 16 <<< 8 ||| b0.setWidth 16 := BitVec.setWidth_append_eq_shiftLeft_setWidth_or
    _ = b0.setWidth 16 ||| (b1.setWidth 16 <<< 8) := BitVec.or_comm _ _

@[simp] theorem joinBytes_lowByte_highByte : joinBytes (lowByte v) (highByte v) = v :=
  BitVec.extractLsb'_append_extractLsb' (w := 8) (len := 8)

@[simp] theorem lowByte_joinBytes : lowByte (joinBytes b0 b1) = b0 := BitVec.extractLsb'_append_eq_right

@[simp] theorem highByte_joinBytes : highByte (joinBytes b0 b1) = b1 := BitVec.extractLsb'_append_eq_left

/-- RD16's result joins the bytes received at frame positions 2 and 3. -/
theorem resultOf_rd16 {ins : List Byte} (h2 : ins[2]? = some b0) (h3 : ins[3]? = some b1) :
    resultOf (.rd16 a v) ins = .data (joinBytes b0 b1) := by
  rw [resultOf, List.getD, List.getD, h2, h3, Option.getD_some, Option.getD_some]

end

/-- Settles O6: WR16's frame holds the two halves, RD16 joins the bytes it receives in their places, and splitting and
joining undo each other. -/
theorem splitAndJoinAgree : Obligations.SplitAndJoinAgree := by
  intro a v d b0 b1 ins
  have hframe : frameOf (.wr16 a v) d = [0x0A#8, a, lowByte v, highByte v] := frameOf_wr16 a d v
  refine ⟨?low, ?high, fun h2 h3 => ?result, joinBytes_lowByte_highByte v, lowByte_joinBytes b0 b1,
    highByte_joinBytes b0 b1⟩
  case low => rw [hframe]; rfl
  case high => rw [hframe]; rfl
  case result => rw [resultOf_rd16 a b0 b1 v h2 h3, joinBytes_eq_or]

section
variable {s : State} {i : Instr} {op : BitVec 4} {a : Byte} {d : Half}

/-! ## Decoding a presented word -/

theorem commandOfFields_eq_none_iff : commandOfFields op a d = none ↔ 7 ≤ op.toNat := by
  unfold commandOfFields
  split
  case h_8 => exact iff_of_true rfl (by grind)
  all_goals exact iff_of_false nofun (by omega)

/-- The command made of three fields has those fields. -/
theorem fields_of_commandOfFields (h : commandOfFields op a d = some i) :
    i.opcode = op ∧ i.addr = a ∧ i.data = d := by
  unfold commandOfFields at h
  split at h
  case h_8 => contradiction
  all_goals
    next hop =>
      injection h with h
      subst h
      exact ⟨BitVec.eq_of_toNat_eq hop.symm, rfl, rfl⟩

/-- A word is illegal by its reserved field or its opcode, or it is a command with the fields of the word. -/
theorem decodeWord_cases (w : Word) :
    ((w.extractLsb' 24 4 ≠ 0#4 ∨ 7 ≤ (w.extractLsb' 28 4).toNat) ∧ ∃ e, decodeWord w = .error e) ∨
    (¬(w.extractLsb' 24 4 ≠ 0#4 ∨ 7 ≤ (w.extractLsb' 28 4).toNat) ∧ ∃ i, decodeWord w = .ok i ∧
      i.opcode = w.extractLsb' 28 4 ∧ i.addr = w.extractLsb' 16 8 ∧ i.data = w.extractLsb' 0 16) := by
  by_cases hrsv : wordRsv w = 0#4
  · have hnot : ¬ wordRsv w ≠ 0#4 := not_not.mpr hrsv
    cases hcmd : commandOfFields (wordOp w) (wordAddr w) (wordData w) with
    | none => exact .inl ⟨.inr (commandOfFields_eq_none_iff.mp hcmd), _, by rw [decodeWord, if_neg hnot, hcmd]⟩
    | some i =>
      have hop : ¬ 7 ≤ (wordOp w).toNat := fun h => by
        rw [commandOfFields_eq_none_iff.mpr h] at hcmd
        contradiction
      exact .inr ⟨not_or.mpr ⟨hnot, hop⟩, i, by rw [decodeWord, if_neg hnot, hcmd], fields_of_commandOfFields hcmd⟩
  · exact .inl ⟨.inl hrsv, _, if_pos hrsv⟩

/-! ## Accepting with the pin latches at rest -/

/-- A pin latch written with the level it holds shows no event (00_scope.md R8). -/
@[simp] theorem pinEvent_same (driven b : Bool) (e : Event) : pinEvent driven b b e = [] := by
  simp [pinEvent]

theorem setSclk_of_low (h : s.sclk = false) : setSclk false s = s := by
  rw [setSclk, h, pinEvent_same, List.append_nil, ← h]

theorem setCsN_of_high (h : s.csN = true) : setCsN true s = s := by
  rw [setCsN, h, pinEvent_same, List.append_nil, Bool.not_true, Bool.and_false, if_neg Bool.false_ne_true, ← h]

/-- Fault entry makes no bus activity while chip-select is high and the clock low. -/
theorem raise_of_rest (hcs : s.csN = true) (hclk : s.sclk = false) {f : BusFault} :
    raise f s = { s with
      err := f.code, rsp := some (.fault f.code), seq := .fault
      trace := s.trace ++ [.respond (.fault f.code)] } := by
  rw [raise, setSclk_of_low hclk, setCsN_of_high hcs]

/-- Of INIT's acceptance the pins show at most that they become driven. -/
theorem acceptInit_of_rest (hcs : s.csN = true) (hclk : s.sclk = false) :
    acceptInit s = { s with
      inited := true, op := 0x1#4, addr := 0x1F#8, wdata := 0x0052#16, seq := .sel
      trace := s.trace ++ if s.inited = true then [] else [.oe true] } := by
  have hevent : pinEvent true s.inited true (.oe true) = if s.inited = true then [] else [.oe true] := by
    cases s.inited <;> rfl
  rw [acceptInit, setCsN_of_high (s := setInited s) hcs, setSclk_of_low (s := setInited s) hclk, setInited, hevent]

/-! ## Responding -/

theorem response_of_done {c : Command} (h : c.reply = .done) : response c s = .done := by
  rw [response, h]

theorem response_of_data {c : Command} (h : c.reply = .data) : response c s = .data s.rdata := by
  rw [response, h]

/-- Under the invariant chip-select is high while the block responds. -/
theorem csN_of_resp (hInv : s.Inv) (hs : s.seq = .resp) : s.csN = true := by
  rw [hInv.framed, not_inFrame_iff.mpr (.inr (.inr (.inl hs))), Bool.not_false]

end

/-- Settles O22: the word is illegal or a command, and acceptance is INIT's, a latch or NotInit; at rest none of them moves
chip-select or the clock. -/
theorem acceptTable : Obligations.AcceptTable := by
  intro s w ws hc hr hs hcs hclk hw
  rcases decodeWord_cases w with ⟨hillegal, e, hd⟩ | ⟨hlegal, i, hd, hop, haddr, hdata⟩
  · rw [if_pos hillegal, step_idle_illegal hc hr hs hw hd]
    exact congrArg _ (raise_of_rest (s := { quiet s with cmds := ws }) hcs hclk)
  · have hstep : step s = .next (acceptOf i { quiet s with cmds := ws }) :=
      (step_idle_run hc hr hs hw hd).trans (exec_idle hs)
    rw [if_neg hlegal, hstep, ← hop, ← haddr, ← hdata]
    rcases acceptOf_cases i { quiet s with cmds := ws } with ⟨hinit, ht⟩ | ⟨hother, hi, ht⟩ | ⟨hother, hi, ht⟩
    · rw [ht, if_neg (fun h => h.1 hinit), if_pos hinit]
      exact congrArg _ (acceptInit_of_rest (s := { quiet s with cmds := ws }) hcs hclk)
    · rw [ht, if_neg (fun h => Bool.false_ne_true (h.2.symm.trans hi)), if_neg hother]
      rfl
    · rw [ht, if_pos ⟨hother, hi⟩]
      exact congrArg _ (raise_of_rest (s := { quiet s with cmds := ws }) hcs hclk)

/-- Settles O13: respond answers RDATA for the two commands that reply with data, and its frame is closed. -/
theorem everyCommandResponds : Obligations.EveryCommandResponds := by
  intro i s hs
  refine ⟨?responds, fun hInv => csN_of_resp hInv hs⟩
  case responds =>
    rw [exec_resp hs, respond]
    cases i with
    | init a v | wr8 a v | wr16 a v | rdfifo a v | rdburst a v => rw [response_of_done rfl]
    | rd8 a v | rd16 a v => rw [response_of_data rfl]

end Sys2Proof.Machine
end

section
/-! Exceptions (60_exceptions.md): how an encoded command is accepted, what fault entry does to the pins (R156), and
that the two faults taken at acceptance, IllegalOp (R151) and NotInit (R154), leave no pin event. -/

namespace Sys2Proof.Machine

section
variable {s : State} {f : BusFault}

/-! ## The decoder on an encoded command -/

@[simp] theorem wordOp_encode (i : Instr) : wordOp (encode i) = i.opcode := by
  rw [wordOp, encode, BitVec.extractLsb'_append_eq_of_le (by decide), BitVec.extractLsb'_append_eq_of_le (by decide)]
  exact BitVec.extractLsb'_append_eq_left

@[simp] theorem wordRsv_encode (i : Instr) : wordRsv (encode i) = 0#4 := by
  rw [wordRsv, encode, BitVec.extractLsb'_append_eq_of_le (by decide), BitVec.extractLsb'_append_eq_of_le (by decide)]
  exact BitVec.extractLsb'_append_eq_right

@[simp] theorem wordAddr_encode (i : Instr) : wordAddr (encode i) = i.addr := by
  rw [wordAddr, encode, BitVec.extractLsb'_append_eq_of_le (by decide)]
  exact BitVec.extractLsb'_append_eq_right

@[simp] theorem wordData_encode (i : Instr) : wordData (encode i) = i.data := BitVec.extractLsb'_append_eq_right

/-- A command is made again of its own three fields. -/
theorem commandOfFields_fields (i : Instr) : commandOfFields i.opcode i.addr i.data = some i := by
  cases i <;> rfl

@[simp] theorem decodeWord_encode (i : Instr) : decodeWord (encode i) = .ok i := by
  simp [decodeWord, commandOfFields_fields]

/-- An encoded command, presented in IDLE, is accepted by the rules of that command. -/
theorem step_idle_encode {i : Instr} {ws : List Word} (hc : s.params.wellFormed = true) (hr : s.rst = 0)
    (hs : s.seq = .idle) (hw : s.cmds = encode i :: ws) :
    step s = .next (acceptOf i { quiet s with cmds := ws }) :=
  (step_idle_run hc hr hs hw (decodeWord_encode i)).trans (exec_idle hs)

/-- Before INIT a command other than INIT is not latched. -/
theorem acceptCommand_of_not_inited {op : BitVec 4} {a : Byte} {d : Half} (hi : s.inited = false) :
    acceptCommand op a d s = raise .notInit s :=
  if_neg (Bool.eq_false_iff.mp hi)

/-! ## Fault entry -/

/-- Raising chip-select shows on the bus exactly if a frame was open on driven pins. -/
theorem pinEvent_csN_true (s : State) :
    pinEvent s.inited s.csN true (.cs true) = if s.inited = true ∧ s.csN = false then [.cs true] else [] := by
  cases hi : s.inited <;> cases hcs : s.csN <;> rfl

/-- Raising chip-select is no edge the device takes as the start of a frame. -/
theorem setCsN_true (s : State) :
    setCsN true s = { s with
      csN := true
      trace := s.trace ++ if s.inited = true ∧ s.csN = false then [.cs true] else [] } := by
  rw [setCsN, pinEvent_csN_true, Bool.not_true, Bool.and_false, if_neg Bool.false_ne_true]

/-- Fault entry with the clock low: its one pin event is the end of an open frame. -/
theorem raise_of_low (hclk : s.sclk = false) :
    raise f s = { s with
      csN := true, err := f.code, rsp := some (.fault f.code), seq := .fault
      trace := s.trace ++ (if s.inited = true ∧ s.csN = false then [.cs true] else []) ++
        [.respond (.fault f.code)] } := by
  rw [raise, setSclk_of_low hclk, setCsN_true]

/-- Fault entry with the pin latches at rest shows nothing on the pins. -/
theorem pinEvents_raise_of_rest (hcs : s.csN = true) (hclk : s.sclk = false) :
    pinEvents (raise f s).trace = pinEvents s.trace := by
  have hresponse : pinEvents [.respond (.fault f.code)] = [] := rfl
  rw [raise_of_rest hcs hclk, pinEvents_append, hresponse, List.append_nil]

end

/-- Settles O25: with the clock low, fault entry is the raising of chip-select, the code and the response. -/
theorem faultEntry : Obligations.FaultEntry := by
  intro f s hclk code
  have hcode : code = f.code := by cases f <;> rfl
  rw [raise_of_low hclk, ← hcode, ← hclk]

/-- Settles O23: the step is fault entry with the pin latches at rest, which writes no latch of the command. -/
theorem illegalOpLeavesNoTrace : Obligations.IllegalOpLeavesNoTrace := by
  intro s w ws e hc hr hs hcs hclk hw hd
  have hpins := pinEvents_raise_of_rest (s := { quiet s with cmds := ws }) (f := .illegalOp) hcs hclk
  exact ⟨_, step_idle_illegal hc hr hs hw hd, rfl, rfl, rfl, hpins, rfl, rfl, rfl, rfl⟩

/-- Settles O24: with INITED 0 acceptance is INIT's or the NotInit fault. -/
theorem notInitBeforeInit : Obligations.NotInitBeforeInit := by
  intro s i ws hc hr hs hcs hclk hi hw
  have hstep := step_idle_encode hc hr hs hw
  have hpins := pinEvents_raise_of_rest (s := { quiet s with cmds := ws }) (f := .notInit) hcs hclk
  cases i with
  | init a v => exact ⟨_, hstep, rfl, rfl, rfl⟩
  | wr8 a v | wr16 a v | rd8 a v | rd16 a v | rdfifo a v | rdburst a v =>
    have hfault := hstep.trans (congrArg _ (acceptCommand_of_not_inited (s := { quiet s with cmds := ws }) hi))
    exact ⟨_, hfault, rfl, rfl, rfl, hi, hpins⟩

end Sys2Proof.Machine
end

section
/-! The decoder (30_encoding.md R60 to R64): a word is its four fields, so it decodes to exactly the command it encodes. -/

namespace Sys2Proof.Machine

section
variable {w : Word} {i : Instr}

/-- A command word is its four fields, highest first (R61). -/
theorem word_eq_fields (w : Word) : w = wordOp w ++ wordRsv w ++ wordAddr w ++ wordData w := by
  have hop : wordOp w ++ wordRsv w = w.extractLsb' 24 8 := BitVec.extractLsb'_append_extractLsb'_eq_extractLsb' rfl
  have haddr : w.extractLsb' 24 8 ++ wordAddr w = w.extractLsb' 16 16 :=
    BitVec.extractLsb'_append_extractLsb'_eq_extractLsb' rfl
  calc w
      = w.extractLsb' 16 16 ++ wordData w := (BitVec.extractLsb'_append_extractLsb' (w := 16) (len := 16)).symm
    _ = wordOp w ++ wordRsv w ++ wordAddr w ++ wordData w := by rw [hop, haddr]

theorem decodeWord_of_rsv_ne_zero (h : wordRsv w ≠ 0#4) : decodeWord w = .error .reservedField := if_pos h

theorem decodeWord_of_reserved_opcode (h : wordRsv w = 0#4) (hop : 7 ≤ (wordOp w).toNat) :
    decodeWord w = .error .reservedOpcode := by
  rw [decodeWord, if_neg (not_not.mpr h), commandOfFields_eq_none_iff.mpr hop]

/-- A word that decodes to a command has a zero reserved field and that command's fields. -/
theorem fields_of_decodeWord (h : decodeWord w = .ok i) :
    wordRsv w = 0#4 ∧ wordOp w = i.opcode ∧ wordAddr w = i.addr ∧ wordData w = i.data := by
  obtain ⟨-, e, herr⟩ | ⟨hlegal, j, hok, hop, haddr, hdata⟩ := decodeWord_cases w
  · rw [herr] at h
    contradiction
  · obtain rfl : j = i := by rw [hok] at h; injection h
    exact ⟨not_not.mp (not_or.mp hlegal).1, hop.symm, haddr.symm, hdata.symm⟩

theorem eq_encode_of_decodeWord (h : decodeWord w = .ok i) : w = encode i := by
  obtain ⟨hrsv, hop, haddr, hdata⟩ := fields_of_decodeWord h
  rw [word_eq_fields w, hrsv, hop, haddr, hdata]
  rfl

end

/-- Settles O2: a decoded word has the command's four fields and so is its encoding; an encoding decodes back. -/
theorem decodesExactlyEncodings : Obligations.DecodesExactlyEncodings :=
  fun _ i => ⟨eq_encode_of_decodeWord, fun h => h ▸ decodeWord_encode i⟩

/-- Settles O3: the reserved field is looked at first, then the opcode. -/
theorem onlyReservedWordsAreIllegal : Obligations.OnlyReservedWordsAreIllegal := by
  intro w
  change (decodeWord w = .error .reservedField ↔ wordRsv w ≠ 0#4) ∧
    (decodeWord w = .error .reservedOpcode ↔ wordRsv w = 0#4 ∧ 7 ≤ (wordOp w).toNat)
  by_cases hrsv : wordRsv w = 0#4
  · by_cases hop : 7 ≤ (wordOp w).toNat
    · simp [decodeWord_of_reserved_opcode hrsv hop, hrsv, hop]
    · obtain ⟨hillegal, -⟩ | ⟨-, i, hok, -⟩ := decodeWord_cases w
      · exact absurd hillegal (not_or.mpr ⟨not_not.mpr hrsv, hop⟩)
      · simp [hok, hrsv, hop]
  · simp [decodeWord_of_rsv_ne_zero hrsv, hrsv]

/-- Settles O1: each legal word is the encoding of its command, and the two others have a reserved field or opcode. -/
theorem specWordsDecode : Obligations.SpecWordsDecode := by
  have decodes {w : Word} {i : Instr} (h : w = encode i) : decodeWord w = .ok i := (decodesExactlyEncodings w i).mpr h
  refine ⟨decodes (by decide), decodes (by decide), decodes (by decide), decodes (by decide), decodes (by decide),
    decodes (by decide), decodes (by decide), ?field, ?opcode⟩
  case field => exact (onlyReservedWordsAreIllegal _).1.mpr (by decide)
  case opcode => exact (onlyReservedWordsAreIllegal _).2.mpr (by decide)

end Sys2Proof.Machine
end

section
/-! What no engine step of a command in flight writes (10_state.md R21, 42_register_protocol.md R137): the latches that hold
the command, INITED, the parameters, the reset input and the words the host holds. -/

namespace Sys2Proof.Machine

section
variable {s t : State} {i : Instr}

/-- `t` has the command in flight of `s`, in the same configuration, before the same host. -/
structure SameCommand (s t : State) : Prop where
  op : t.op = s.op
  addr : t.addr = s.addr
  wdata : t.wdata = s.wdata
  inited : t.inited = s.inited
  params : t.params = s.params
  rst : t.rst = s.rst
  cmds : t.cmds = s.cmds

theorem SameCommand.inFlight (h : SameCommand s t) : t.inFlight = s.inFlight := by
  rw [State.inFlight, h.op, h.addr, h.wdata, State.inFlight]

theorem SameCommand.frameLength (h : SameCommand s t) : t.frameLength = s.frameLength := by
  rw [State.frameLength, h.inFlight, h.params, State.frameLength]

theorem SameCommand.trans {u : State} (h : SameCommand s t) (h' : SameCommand t u) : SameCommand s u :=
  ⟨h'.op.trans h.op, h'.addr.trans h.addr, h'.wdata.trans h.wdata, h'.inited.trans h.inited, h'.params.trans h.params,
    h'.rst.trans h.rst, h'.cmds.trans h.cmds⟩

theorem quiet_sameCommand (s : State) : SameCommand s (quiet s) := ⟨rfl, rfl, rfl, rfl, rfl, rfl, rfl⟩

theorem pollClock_sameCommand (s : State) : SameCommand s (pollClock s) := by
  unfold pollClock
  split
  · exact ⟨rfl, rfl, rfl, rfl, rfl, rfl, rfl⟩
  · exact ⟨rfl, rfl, rfl, rfl, rfl, rfl, rfl⟩

/-- The state with one more poll counted, where polls are counted (10_state.md R15). -/
def pollCounted (s : State) : State :=
  { s with polls := if s.params.timeout = none then s.polls else s.polls.map (PollCounter.plus 1) }

/-- A poll is the Timeout fault, or it is counted and the clock source answers. -/
theorem xferPoll_split (s : State) :
    (s.params.timeout = some s.pollCount ∧ xferPoll s = raise .timeout s) ∨
    (s.params.timeout ≠ some s.pollCount ∧ xferPoll s = pollClock (pollCounted s)) := xferPoll_cases s

theorem xferPoll_sameCommand (s : State) : SameCommand s (xferPoll s) := by
  obtain ⟨-, h⟩ | ⟨-, h⟩ := xferPoll_split s <;> rw [h]
  · exact ⟨rfl, rfl, rfl, rfl, rfl, rfl, rfl⟩
  · have hcounted : SameCommand s (pollCounted s) := ⟨rfl, rfl, rfl, rfl, rfl, rfl, rfl⟩
    exact hcounted.trans (pollClock_sameCommand _)

theorem deliver_sameCommand (r : Route) (b : Byte) (s : State) : SameCommand s (deliver r b s) := by
  cases r with
  | drop | rdataZext | rdataHigh | stream => exact ⟨rfl, rfl, rfl, rfl, rfl, rfl, rfl⟩

theorem xferCollect_sameCommand (c : Command) (s : State) : SameCommand s (xferCollect c s) :=
  (deliver_sameCommand (c.route s.idx.toNat) s.sr s).trans ⟨rfl, rfl, rfl, rfl, rfl, rfl, rfl⟩

/-- An engine step of a command, in every phase but IDLE. -/
theorem exec_sameCommand (hs : s.seq ≠ .idle) (h : exec i s = .next t) : SameCommand s t := by
  obtain ⟨hidle, -⟩ | ⟨-, rfl⟩ | ⟨-, b, -, rfl⟩ | ⟨-, -, rfl⟩ | ⟨-, -, rfl⟩ | ⟨-, rfl⟩ | ⟨-, rfl⟩ | ⟨-, rfl⟩ :=
    exec_next h
  · exact absurd hidle hs
  · exact ⟨rfl, rfl, rfl, rfl, rfl, rfl, rfl⟩
  · exact ⟨rfl, rfl, rfl, rfl, rfl, rfl, rfl⟩
  · exact xferPoll_sameCommand s
  · exact xferCollect_sameCommand _ s
  · exact ⟨rfl, rfl, rfl, rfl, rfl, rfl, rfl⟩
  · exact ⟨rfl, rfl, rfl, rfl, rfl, rfl, rfl⟩
  · exact ⟨rfl, rfl, rfl, rfl, rfl, rfl, rfl⟩

/-- The phases in which a command is in flight. -/
theorem seq_of_busy (hb : s.stBusy = true) : s.seq ≠ .idle ∧ s.seq ≠ .fault := by
  simpa [State.stBusy] using hb

theorem busy_of_seq (h : s.seq ≠ .idle) (h' : s.seq ≠ .fault) : s.stBusy = true := by
  simp [State.stBusy, h, h']

end

end Sys2Proof.Machine
end

section
/-! The invariant (10_state.md R33, 41_cs_framing.md R104) is kept by each operation of a step, and so by every step. -/

namespace Sys2Proof.Machine

section
variable {s t : State} {i : Instr}

/-- With a counter of 16 bits no frame has more than two bytes and 65535 (10_state.md R22, 30_encoding.md R67). -/
theorem frameOf_length_le (i : Instr) (d : Byte) : (frameOf i d).length ≤ 65537 := by
  cases i with
  | rdfifo a v | rdburst a v =>
    have := v.isLt
    simp
    omega
  | init a v | wr8 a v | wr16 a v | rd8 a v | rd16 a v => simp

theorem frameLength_of_inFlight (h : s.inFlight = some i) : s.frameLength = (frameOf i s.params.dummy).length := by
  rw [State.frameLength, h]

theorem frameLength_le (s : State) : s.frameLength ≤ 65537 := by
  unfold State.frameLength
  split
  · exact frameOf_length_le _ _
  · omega

theorem frameLength_pos (h : s.inFlight.isSome = true) : 0 < s.frameLength := by
  obtain ⟨i, hi⟩ := Option.isSome_iff_exists.mp h
  rw [frameLength_of_inFlight hi]
  exact List.length_pos_iff.mpr (frameOf_ne_nil _ i)

/-- Outside FAULT no fault code stands. -/
theorem err_of_inv (hInv : s.Inv) (hs : s.seq ≠ .fault) : s.err = 0#2 := by
  by_contra h
  exact hs (hInv.faulted.mp h)

/-- A step that neither starts nor ends in FAULT and leaves ERR alone. -/
theorem faulted_of_same_err (hInv : s.Inv) (hs : s.seq ≠ .fault) (herr : t.err = s.err) (ht : t.seq ≠ .fault) :
    t.err ≠ 0#2 ↔ t.seq = .fault :=
  iff_of_false (not_not.mpr (herr.trans (err_of_inv hInv hs))) ht

theorem BusFault.code_ne_zero (f : BusFault) : f.code ≠ 0#2 := by
  cases f <;> decide

/-! ## Reset, waiting and fault entry -/

theorem applyReset_inv (s : State) : (applyReset s).Inv where
  framed := rfl
  configured := nofun
  clockLow := rfl
  bitsBound := Nat.zero_le _
  doneFull := nofun
  notDone := nofun
  faulted := iff_of_false (fun h => h rfl) nofun
  latched := nofun
  indexed := nofun
  indexBound _ := Nat.zero_le _
  indexRange := Nat.zero_le _
  pollsShape := freshPolls_width s.params
  pollsBound n _ := by rw [pollCount_fresh (s := applyReset s) (p := s.params) rfl]; omega

theorem quiet_inv (hInv : s.Inv) : (quiet s).Inv := { hInv with }

/-- A word taken from the host is no part of the invariant. -/
theorem taken_inv (hInv : s.Inv) (ws : List Word) : State.Inv { s with cmds := ws } := { hInv with }

/-- Fault entry closes the frame; outside SEL IDX is within it. -/
theorem raise_inv (hInv : s.Inv) (hs : s.seq ≠ .sel) (f : BusFault) : (raise f s).Inv :=
  { hInv with
    framed := rfl
    configured := nofun
    clockLow := rfl
    notDone := nofun
    faulted := iff_of_true f.code_ne_zero rfl
    latched := nofun
    indexed := nofun
    indexBound := fun _ => hInv.indexBound hs }

/-! ## The operations of a command, phase by phase -/

theorem acceptInit_inv (hInv : s.Inv) (hs : s.seq = .idle) : (acceptInit s).Inv :=
  { hInv with
    framed := rfl
    configured := fun _ => rfl
    clockLow := rfl
    notDone := nofun
    faulted := faulted_of_same_err hInv (by simp [hs]) rfl nofun
    latched := fun _ => rfl
    indexed := nofun
    indexBound := fun h => absurd rfl h }

theorem accepted_inv (hInv : s.Inv) (hs : s.seq = .idle) (hi : s.inited = true) (i : Instr) :
    State.Inv { s with op := i.opcode, addr := i.addr, wdata := i.data, seq := .sel } :=
  { hInv with
    framed := csN_of_idle (s := s) hInv hs
    configured := fun _ => hi
    notDone := nofun
    faulted := faulted_of_same_err hInv (by simp [hs]) rfl nofun
    latched := fun _ => by
      show (commandOfFields i.opcode i.addr i.data).isSome = true
      rw [commandOfFields_fields, Option.isSome_some]
    indexed := nofun
    indexBound := fun h => absurd rfl h }

theorem acceptOf_inv (hInv : s.Inv) (hs : s.seq = .idle) (i : Instr) : (acceptOf i s).Inv := by
  obtain ⟨-, ht⟩ | ⟨-, hi, ht⟩ | ⟨-, -, ht⟩ := acceptOf_cases i s <;> rw [ht]
  · exact acceptInit_inv hInv hs
  · exact accepted_inv hInv hs hi i
  · exact raise_inv hInv (by simp [hs]) _

/-- SELECT clears IDX, which is a position of every frame. -/
theorem select_inv (hInv : s.Inv) (hs : s.seq = .sel) : (select s).Inv :=
  have hb : s.stBusy = true := busy_of_seq (by simp [hs]) (by simp [hs])
  { hInv with
    framed := rfl
    configured := fun _ => hInv.configured hb
    notDone := nofun
    faulted := faulted_of_same_err hInv (by simp [hs]) rfl nofun
    latched := fun _ => hInv.latched hb
    indexed := fun _ => frameLength_pos (hInv.latched hb)
    indexBound := fun _ => Nat.zero_le _
    indexRange := Nat.zero_le _ }

theorem xferLoad_inv (hInv : s.Inv) (hs : s.seq = .load) (b : Byte) : (xferLoad b s).Inv :=
  have hb : s.stBusy = true := busy_of_seq (by simp [hs]) (by simp [hs])
  { hInv with
    framed := hInv.framed.trans (by rw [inFrame_iff.mpr (.inl hs)]; rfl)
    configured := fun _ => hInv.configured hb
    bitsBound := Nat.zero_le _
    doneFull := nofun
    notDone := fun _ _ => Nat.zero_lt_succ _
    faulted := faulted_of_same_err hInv (by simp [hs]) rfl nofun
    latched := fun _ => hInv.latched hb
    indexed := fun _ => hInv.indexed (.inl hs)
    indexBound := fun _ => hInv.indexBound (by simp [hs])
    pollsShape := freshPolls_width s.params
    pollsBound := fun n _ => by rw [pollCount_fresh (s := xferLoad b s) (p := s.params) rfl]; omega }

/-- BITCNT counts a pulse while the transfer has pulses left. -/
theorem bitcnt_succ {n : BitVec 4} (h : n.toNat < 8) : (n + 1#4).toNat = n.toNat + 1 := by
  bv_omega

/-- The eighth pulse, and no earlier one, completes the transfer. -/
theorem transferComplete_iff (n : BitVec 4) : transferComplete n = true ↔ n.toNat = 8 := by
  rw [transferComplete, beq_iff_eq]
  bv_omega

/-- A pulse of a transfer that is not done. -/
theorem pulse_inv (hInv : s.Inv) (hs : s.seq = .shift) (hx : s.xdone = false) : (pulse s).Inv :=
  have hleft : s.bitcnt.toNat < 8 := hInv.notDone hs hx
  have hcount : (s.bitcnt + 1#4).toNat = s.bitcnt.toNat + 1 := bitcnt_succ hleft
  have hdone : (pulse s).xdone = transferComplete (s.bitcnt + 1#4) := by rw [pulse_xdone, hx, Bool.false_or]
  { hInv with
    clockLow := rfl
    bitsBound := by rw [pulse_bitcnt, hcount]; omega
    doneFull := fun h => by
      rw [hdone, transferComplete_iff] at h
      exact BitVec.eq_of_toNat_eq h
    notDone := fun _ h => by
      rw [hdone, Bool.eq_false_iff, ne_eq, transferComplete_iff] at h
      rw [pulse_bitcnt]
      omega }

theorem pollClock_inv (hInv : s.Inv) (hs : s.seq = .shift) (hx : s.xdone = false) : (pollClock s).Inv := by
  have hanswered : State.Inv { s with clock := s.clock.advance, draws := s.draws + 1 } := { hInv with }
  unfold pollClock
  split
  · exact pulse_inv hanswered hs hx
  · exact hanswered

/-- A poll short of TIMEOUT counts itself. -/
theorem counted_inv (hInv : s.Inv) (hne : s.params.timeout ≠ some s.pollCount) :
    (pollCounted s).Inv :=
  { hInv with
    pollsShape := by
      rw [pollCounted, ← hInv.pollsShape]
      dsimp only
      split_ifs
      · rfl
      · rw [Option.map_map]
        rfl
    pollsBound := fun n hn => by
      have hle := hInv.pollsBound n hn
      have hcounted := pollCount_counted_le (s := s) (t := pollCounted s) rfl
      have : s.pollCount ≠ n := fun e => hne (e ▸ hn)
      omega }

theorem xferPoll_inv (hInv : s.Inv) (hs : s.seq = .shift) (hx : s.xdone = false) : (xferPoll s).Inv := by
  obtain ⟨-, ht⟩ | ⟨hne, ht⟩ := xferPoll_split s <;> rw [ht]
  · exact raise_inv hInv (by simp [hs]) _
  · exact pollClock_inv (counted_inv hInv hne) hs hx

@[simp] theorem deliver_err (r : Route) (b : Byte) (s : State) : (deliver r b s).err = s.err := by
  cases r with
  | drop | rdataZext | rdataHigh | stream => rfl

@[simp] theorem xferCollect_err (c : Command) (s : State) : (xferCollect c s).err = s.err :=
  deliver_err (c.route s.idx.toNat) s.sr s

theorem deliver_inv (hInv : s.Inv) (r : Route) (b : Byte) : (deliver r b s).Inv := by
  cases r with
  | drop | rdataZext | rdataHigh | stream => exact { hInv with }

/-- IDX does not wrap while it is within a frame. -/
theorem idx_succ {n : FrameIndex} (h : n.toNat ≤ 65537) : (n + 1#17).toNat = n.toNat + 1 := by
  bv_omega

/-- A collect moves IDX to the next frame byte, or to the frame's end and the phase to DESELECT. -/
theorem xferCollect_inv (hInv : s.Inv) (hs : s.seq = .shift) {c : Command} (hc : c.frame.length = s.frameLength) :
    (xferCollect c s).Inv :=
  have hdeliver : (deliver (c.route s.idx.toNat) s.sr s).Inv := deliver_inv hInv _ _
  have hsame : SameCommand s (xferCollect c s) := xferCollect_sameCommand c s
  have hb : s.stBusy = true := busy_of_seq (by simp [hs]) (by simp [hs])
  have hidx : s.idx.toNat < s.frameLength := hInv.indexed (.inr hs)
  have hlen : s.frameLength ≤ 65537 := frameLength_le s
  have hnext : (s.idx + 1#17).toNat = s.idx.toNat + 1 := idx_succ hInv.indexRange
  have hphase : (xferCollect c s).seq ≠ .shift ∧ (xferCollect c s).seq ≠ .fault := by
    rw [xferCollect_seq]
    split <;> simp
  { hdeliver with
    framed := by
      rw [xferCollect_csN, xferCollect_inFrame, hInv.framed, inFrame_iff.mpr (.inr (.inl hs))]
    configured := fun _ => hsame.inited.trans (hInv.configured hb)
    notDone := fun h => absurd h hphase.1
    faulted := faulted_of_same_err hInv (by simp [hs]) (xferCollect_err c s) hphase.2
    latched := fun _ => hsame.inFlight.symm ▸ hInv.latched hb
    indexed := by
      rw [hsame.frameLength, xferCollect_idx, xferCollect_seq, hc, hnext]
      split
      · simp
      · intro; omega
    indexBound := fun _ => by rw [hsame.frameLength, xferCollect_idx]; omega
    indexRange := by rw [xferCollect_idx]; omega }

theorem deselect_inv (hInv : s.Inv) (hs : s.seq = .desel) : (deselect s).Inv :=
  have hb : s.stBusy = true := busy_of_seq (by simp [hs]) (by simp [hs])
  { hInv with
    framed := rfl
    configured := fun _ => hInv.configured hb
    notDone := nofun
    faulted := faulted_of_same_err hInv (by simp [hs]) rfl nofun
    latched := fun _ => hInv.latched hb
    indexed := nofun
    indexBound := fun _ => hInv.indexBound (by simp [hs]) }

theorem respond_inv (hInv : s.Inv) (hs : s.seq = .resp) (c : Command) : (respond c s).Inv :=
  { hInv with
    framed := csN_of_resp (s := s) hInv hs
    configured := nofun
    notDone := nofun
    faulted := faulted_of_same_err hInv (by simp [hs]) rfl nofun
    latched := nofun
    indexed := nofun
    indexBound := fun _ => hInv.indexBound (by simp [hs]) }

/-! ## The step -/

/-- An engine step of the command in flight. -/
theorem exec_inv (hInv : s.Inv) (hb : s.stBusy = true) (hi : s.inFlight = some i) (h : exec i s = .next t) : t.Inv := by
  obtain ⟨hidle, hfault⟩ := seq_of_busy hb
  obtain ⟨hs, -⟩ | ⟨hs, rfl⟩ | ⟨hs, b, -, rfl⟩ | ⟨hs, hx, rfl⟩ | ⟨hs, hx, rfl⟩ | ⟨hs, rfl⟩ | ⟨hs, rfl⟩ | ⟨hs, -⟩ :=
    exec_next h
  · exact absurd hs hidle
  · exact select_inv hInv hs
  · exact xferLoad_inv hInv hs b
  · exact xferPoll_inv hInv hs hx
  · exact xferCollect_inv hInv hs (frameLength_of_inFlight hi).symm
  · exact deselect_inv hInv hs
  · exact respond_inv hInv hs _
  · exact absurd hs hfault

end

/-- Settles O33: a step is a reset, a wait, or one operation of a command or of fault entry, and each keeps the invariant. -/
theorem stepKeepsTheInvariant : Obligations.StepKeepsTheInvariant := by
  intro s t hInv h
  obtain ⟨-, ⟨-, rfl⟩ | ⟨-, ⟨-, rfl⟩ | ⟨-, -, rfl⟩ | ⟨hs, w, ws, -, ⟨e, -, rfl⟩ | ⟨i, -, rfl⟩⟩ | ⟨hb, i, hi, hexec⟩⟩⟩ :=
    step_next h
  · exact applyReset_inv s
  · exact quiet_inv hInv
  · exact quiet_inv hInv
  · have hne : s.seq ≠ .sel := by simp [hs]
    exact raise_inv (taken_inv (quiet_inv hInv) ws) hne _
  · exact acceptOf_inv (taken_inv (quiet_inv hInv) ws) hs i
  · exact exec_inv (quiet_inv hInv) hb hi hexec

end Sys2Proof.Machine
end

section
/-! What a step answers, and the rules of the whole machine it follows: progress, IDX, the sticky fault code, INITED, and the
latches (10_state.md R18, R21, R22, R24; 42_register_protocol.md R137). -/

namespace Sys2Proof.Machine

section
variable {s t : State} {i : Instr}

/-! ## Which outcome a step has -/

theorem step_refused (hc : s.params.wellFormed = false) : step s = .refused .timeoutBelowEight := by
  simp [step, fetch, hc]

theorem step_busy_none (hc : s.params.wellFormed = true) (hr : s.rst = 0) (hb : s.stBusy = true)
    (hi : s.inFlight = none) : step s = .fault .noCommandInFlight := by
  obtain ⟨hidle, hfault⟩ := seq_of_busy hb
  cases hs : s.seq with
  | idle => exact absurd hs hidle
  | fault => exact absurd hs hfault
  | sel | load | shift | desel | resp => simp [step, fetch, hc, hr, hs, hi]

/-- In a configuration the model runs a step answers, unless a busy block's latches hold no command, or that command's
engine step does not answer. -/
theorem step_outcome (hc : s.params.wellFormed = true) :
    (∃ t, step s = .next t) ∨ (s.stBusy = true ∧ s.inFlight = none ∧ step s = .fault .noCommandInFlight) ∨
    (s.stBusy = true ∧ ∃ i, s.inFlight = some i ∧ step s = exec i (quiet s)) := by
  obtain hr | hr := Nat.eq_zero_or_pos s.rst
  · by_cases hidle : s.seq = .idle
    · cases hw : s.cmds with
      | nil => exact .inl ⟨_, step_idle_wait hc hr hidle hw⟩
      | cons w ws =>
        cases hd : decodeWord w with
        | error e => exact .inl ⟨_, step_idle_illegal hc hr hidle hw hd⟩
        | ok i => exact .inl ⟨_, (step_idle_run hc hr hidle hw hd).trans (exec_idle hidle)⟩
    · by_cases hfault : s.seq = .fault
      · exact .inl ⟨_, step_fault hc hr hfault⟩
      · have hb : s.stBusy = true := busy_of_seq hidle hfault
        cases hi : s.inFlight with
        | none => exact .inr (.inl ⟨hb, rfl, step_busy_none hc hr hb hi⟩)
        | some i => exact .inr (.inr ⟨hb, i, rfl, step_busy hc hr hb hi⟩)
  · exact .inl ⟨_, step_reset hc hr⟩

/-- The only engine step of a command that has no next state is a load past the frame's end. -/
theorem exec_outcome (i : Instr) (s : State) :
    (∃ t, exec i s = .next t) ∨
    (s.seq = .load ∧ (frameOf i s.params.dummy).length ≤ s.idx.toNat ∧ exec i s = .fault .noFrameByte) := by
  cases hs : s.seq with
  | idle => exact .inl ⟨_, exec_idle hs⟩
  | sel => exact .inl ⟨_, exec_sel hs⟩
  | load =>
    cases hb : (frameOf i s.params.dummy)[s.idx.toNat]? with
    | none => exact .inr ⟨rfl, List.getElem?_eq_none_iff.mp hb, exec_load_none hs hb⟩
    | some b => exact .inl ⟨_, exec_load hs hb⟩
  | shift =>
    cases hx : s.xdone with
    | false => exact .inl ⟨_, exec_poll hs hx⟩
    | true => exact .inl ⟨_, exec_collect hs hx⟩
  | desel => exact .inl ⟨_, exec_desel hs⟩
  | resp => exact .inl ⟨_, exec_resp hs⟩
  | fault => exact .inl ⟨_, exec_fault hs⟩

/-! ## Where a step leads -/

/-- No engine step of a command in flight goes back to SEL. -/
theorem exec_seq_ne_sel (hb : s.stBusy = true) (h : exec i s = .next t) : t.seq ≠ .sel := by
  obtain ⟨hs, -⟩ | ⟨-, rfl⟩ | ⟨-, b, -, rfl⟩ | ⟨hs, -, rfl⟩ | ⟨-, -, rfl⟩ | ⟨-, rfl⟩ | ⟨-, rfl⟩ | ⟨hs, -⟩ := exec_next h
  · exact absurd hs (seq_of_busy hb).1
  · exact nofun
  · exact nofun
  · obtain ⟨-, ht⟩ | ⟨-, ht⟩ := xferPoll_split s <;> rw [ht]
    · exact nofun
    · rw [pollClock_seq]
      simp [pollCounted, hs]
  · rw [xferCollect_seq]
    split <;> simp
  · exact nofun
  · exact nofun
  · exact absurd hs (seq_of_busy hb).2

@[simp] theorem acceptOf_idx (i : Instr) (s : State) : (acceptOf i s).idx = s.idx := by
  obtain ⟨-, ht⟩ | ⟨-, -, ht⟩ | ⟨-, -, ht⟩ := acceptOf_cases i s <;> rw [ht] <;> rfl

/-- A step to SEL is an acceptance, and leaves IDX alone. -/
theorem step_to_sel (h : step s = .next t) (ht : t.seq = .sel) : s.seq = .idle ∧ t.idx = s.idx := by
  obtain ⟨-, ⟨-, rfl⟩ | ⟨-, ⟨hs, rfl⟩ | ⟨hs, -, rfl⟩ | ⟨hs, w, ws, -, ⟨e, -, rfl⟩ | ⟨i, -, rfl⟩⟩ | ⟨hb, i, -, hexec⟩⟩⟩ :=
    step_next h
  · contradiction
  · simp [hs] at ht
  · simp [hs] at ht
  · contradiction
  · exact ⟨hs, acceptOf_idx i _⟩
  · exact absurd ht (exec_seq_ne_sel (s := quiet s) hb hexec)

/-- A step from SEL is SELECT, or a reset; either clears IDX. -/
theorem step_from_sel (h : step s = .next t) (hs : s.seq = .sel) : t.idx = 0#17 := by
  have hb : s.stBusy = true := by simp [State.stBusy, hs]
  obtain ⟨-, ⟨-, rfl⟩ | ⟨hr, -⟩⟩ := step_next h
  · rfl
  · obtain ⟨-, i, -, hexec⟩ := step_busy_next hb hr h
    rw [exec_sel (s := quiet s) hs] at hexec
    injection hexec with ht
    rw [← ht, select_idx]

/-! ## ERR -/

@[simp] theorem pollClock_err (s : State) : (pollClock s).err = s.err := by
  unfold pollClock
  split
  · rw [pulse_err]
  · rfl

/-- An engine step writes ERR by fault entry or not at all. -/
theorem exec_err (h : exec i s = .next t) : t.err = s.err ∨ (s.seq ≠ .fault ∧ ∃ f, t = raise f s) := by
  obtain ⟨hs, rfl⟩ | ⟨-, rfl⟩ | ⟨-, b, -, rfl⟩ | ⟨hs, -, rfl⟩ | ⟨-, -, rfl⟩ | ⟨-, rfl⟩ | ⟨-, rfl⟩ | ⟨-, rfl⟩ :=
    exec_next h
  · obtain ⟨-, ht⟩ | ⟨-, -, ht⟩ | ⟨-, -, ht⟩ := acceptOf_cases i s <;> rw [ht]
    · exact .inl rfl
    · exact .inl rfl
    · exact .inr ⟨by simp [hs], _, rfl⟩
  · exact .inl rfl
  · exact .inl rfl
  · obtain ⟨-, ht⟩ | ⟨-, ht⟩ := xferPoll_split s <;> rw [ht]
    · exact .inr ⟨by simp [hs], _, rfl⟩
    · exact .inl (pollClock_err _)
  · exact .inl (xferCollect_err _ s)
  · exact .inl rfl
  · exact .inl rfl
  · exact .inl rfl

/-- A step with reset released writes ERR by fault entry or not at all. -/
theorem step_err (hr : s.rst = 0) (h : step s = .next t) :
    t.err = s.err ∨ (s.seq ≠ .fault ∧ ∃ f u, t = raise f u) := by
  obtain ⟨-, ⟨hpos, -⟩ | ⟨-, ⟨-, rfl⟩ | ⟨-, -, rfl⟩ | ⟨hs, w, ws, -, ⟨e, -, rfl⟩ | ⟨i, -, rfl⟩⟩ | ⟨-, i, -, hexec⟩⟩⟩ :=
    step_next h
  · omega
  · exact .inl rfl
  · exact .inl rfl
  · exact .inr ⟨by simp [hs], _, _, rfl⟩
  · have haccept := exec_err (exec_idle (i := i) (s := { quiet s with cmds := ws }) hs)
    exact haccept.imp_right fun ⟨hne, f, ht⟩ => ⟨hne, f, _, ht⟩
  · exact (exec_err hexec).imp_right fun ⟨hne, f, ht⟩ => ⟨hne, f, _, ht⟩

/-! ## INITED and the latches -/

theorem init_of_opcode (h : i.opcode = 0x0#4) : ∃ a d, i = .init a d := by
  cases i with
  | init a d => exact ⟨a, d, rfl⟩
  | wr8 a d | wr16 a d | rd8 a d | rd16 a d | rdfifo a d | rdburst a d => exact absurd h (by simp [Instr.opcode])

/-- A step with reset released keeps the latches and INITED, or accepts a command. -/
theorem step_keeps_or_accepts (hr : s.rst = 0) (h : step s = .next t) :
    (t.op = s.op ∧ t.addr = s.addr ∧ t.wdata = s.wdata ∧ t.inited = s.inited) ∨
    (s.seq = .idle ∧ t.seq = .sel ∧ t.inited = true ∧ ∃ i ws, s.cmds = encode i :: ws ∧
      (s.inited = true ∨ i.opcode = 0x0#4)) := by
  obtain ⟨-, ⟨hpos, -⟩ | ⟨-, ⟨-, rfl⟩ | ⟨-, -, rfl⟩ | ⟨hs, w, ws, hw, ⟨e, -, rfl⟩ | ⟨i, hd, rfl⟩⟩ | ⟨hb, i, -, hexec⟩⟩⟩ :=
    step_next h
  · omega
  · exact .inl ⟨rfl, rfl, rfl, rfl⟩
  · exact .inl ⟨rfl, rfl, rfl, rfl⟩
  · exact .inl ⟨rfl, rfl, rfl, rfl⟩
  · have hport : s.cmds = encode i :: ws := by rw [hw, eq_encode_of_decodeWord hd]
    obtain ⟨hop, ht⟩ | ⟨-, hi, ht⟩ | ⟨-, -, ht⟩ := acceptOf_cases i { quiet s with cmds := ws } <;> rw [ht]
    · exact .inr ⟨hs, rfl, rfl, i, ws, hport, .inr hop⟩
    · exact .inr ⟨hs, rfl, hi, i, ws, hport, .inl hi⟩
    · exact .inl ⟨rfl, rfl, rfl, rfl⟩
  · have hsame := exec_sameCommand (s := quiet s) (seq_of_busy hb).1 hexec
    exact .inl ⟨hsame.op, hsame.addr, hsame.wdata, hsame.inited⟩

end

/-- Settles O31: a short TIMEOUT is the one configuration refused; otherwise a step answers or stops by a fault. -/
theorem onlyShortTimeoutsAreRefused : Obligations.OnlyShortTimeoutsAreRefused := by
  refine ⟨fun s n ht hn => step_refused ?short, fun s r hc => ?runs⟩
  case short => simp [Params.wellFormed, ht, hn]
  case runs =>
    obtain ⟨t, h⟩ | ⟨-, -, h⟩ | ⟨-, i, -, h⟩ := step_outcome hc <;> rw [h]
    · exact nofun
    · exact nofun
    · obtain ⟨t, h⟩ | ⟨-, -, h⟩ := exec_outcome i (quiet s) <;> rw [h] <;> exact nofun

/-- Settles O34: under the invariant a busy block's latches hold a command, and a load finds its frame byte. -/
theorem invariantStepsAnswer : Obligations.InvariantStepsAnswer := by
  intro s hInv hc
  obtain hnext | ⟨hb, hi, -⟩ | ⟨hb, i, hi, h⟩ := step_outcome hc
  · exact hnext
  · have := hInv.latched hb
    simp [hi] at this
  · obtain ⟨t, hexec⟩ | ⟨hs, hle, -⟩ := exec_outcome i (quiet s)
    · exact ⟨t, h.trans hexec⟩
    · have hlt := hInv.indexed (.inl hs)
      rw [frameLength_of_inFlight hi] at hlt
      exact absurd hlt (Nat.not_lt.mpr hle)

/-- Settles O36: the bound outside SEL is the invariant's; only acceptance leads to SEL and only SELECT leaves it. -/
theorem indexStaysInTheFrameItCounts : Obligations.IndexStaysInTheFrameItCounts := by
  intro s t hInv h
  refine ⟨(stepKeepsTheInvariant s t hInv h).indexBound, fun ht => ?toSel, step_from_sel h⟩
  case toSel =>
    obtain ⟨hs, hidx⟩ := step_to_sel h ht
    exact ⟨hs, hidx, hidx ▸ hInv.indexBound (by simp [hs])⟩

/-- Settles O38: a code stands in FAULT only, where no step enters a fault. -/
theorem errorIsSticky : Obligations.ErrorIsSticky := by
  intro s t hInv hr h
  obtain herr | ⟨hs, f, u, rfl⟩ := step_err hr h
  · exact ⟨fun _ => herr, fun hne => absurd herr hne⟩
  · exact ⟨fun hne => absurd (hInv.faulted.mp hne) hs, fun _ => ⟨rfl, hs, rfl⟩⟩

/-- Settles O39: without reset INITED is kept, or a command is accepted with the pins configured; before that it is INIT. -/
theorem initedIsSetByInitOnly : Obligations.InitedIsSetByInitOnly := by
  intro s t h
  obtain hr | hr := Nat.eq_zero_or_pos s.rst
  · obtain ⟨-, -, -, hkept⟩ | ⟨hs, -, ht, i, ws, hw, hi⟩ := step_keeps_or_accepts hr h
    · exact ⟨fun h1 h0 => by simp [hkept, h1] at h0, fun h0 h1 => by simp [hkept, h0] at h1⟩
    · refine ⟨fun _ h0 => by simp [ht] at h0, fun h0 _ => ⟨hs, ?init⟩⟩
      obtain ⟨a, d, rfl⟩ := init_of_opcode (hi.resolve_left (by simp [h0]))
      exact ⟨a, d, ws, hw⟩
  · refine ⟨fun _ _ => hr, fun _ h1 => ?cleared⟩
    obtain ⟨-, ⟨-, rfl⟩ | ⟨hr0, -⟩⟩ := step_next h
    · contradiction
    · omega

/-- Settles O42: a step without reset keeps the latches or accepts a command. -/
theorem latchesHoldUntilTheNextAcceptance : Obligations.LatchesHoldUntilTheNextAcceptance := by
  intro s t hr h hchanged
  obtain ⟨hop, haddr, hdata, -⟩ | ⟨hs, ht, -⟩ := step_keeps_or_accepts hr h
  · simp [hop, haddr, hdata] at hchanged
  · exact ⟨hs, ht⟩

end Sys2Proof.Machine
end

section
/-! The micro-operations as exact next states (40_shift_engine.md R83, R87, R88; 41_cs_framing.md R100, R101), one engine step
of every command. -/

namespace Sys2Proof.Machine

section
variable {s : State} {i : Instr}

/-- A pin shows an event exactly when it is driven and its level changes (00_scope.md R8). -/
theorem pinEvent_eq_ite (driven old new : Bool) (e : Event) :
    pinEvent driven old new e = if driven = true ∧ old ≠ new then [e] else [] := by
  simp [pinEvent]

theorem pinEvent_driven (old new : Bool) (e : Event) :
    pinEvent true old new e = if old = new then [] else [e] := by
  simp [pinEvent]

/-! ## PULSE -/

/-- Shifting a bit in is dropping the highest bit and appending the new one. -/
theorem shiftConcat_eq_append (b : Byte) (m : Bool) : b.shiftConcat m = b.extractLsb' 0 7 ++ BitVec.ofBool m := by
  apply BitVec.eq_of_getLsbD_eq
  intro k hk
  rw [BitVec.getLsbD_shiftConcat, BitVec.getLsbD_append, BitVec.getLsbD_extractLsb']
  cases k with
  | zero => simp
  | succ k =>
    have hk7 : k < 7 := by omega
    simp [hk, hk7]

theorem msb_shiftConcat (b : Byte) (m : Bool) : (b.shiftConcat m).msb = b.getLsbD 6 := by
  rw [BitVec.msb_eq_getLsbD_last, BitVec.getLsbD_shiftConcat]
  rfl

theorem cell_eq (b : Byte) (m : Bool) :
    cell b m = [Event.sclk true, Event.sample (b.getLsbD 7) m, Event.sclk false] ++
      if b.getLsbD 7 = b.getLsbD 6 then [] else [Event.mosi (b.getLsbD 6)] := by
  have hmsb : b.msb = b.getLsbD 7 := BitVec.msb_eq_getLsbD_last b
  rw [cell, pinEvent_driven, msb_shiftConcat, hmsb]

theorem pulse_eq (s : State) :
    pulse s = { s with
      sr := s.sr.extractLsb' 0 7 ++ BitVec.ofBool s.pinMiso, srLoaded := true
      latch := s.pinMiso
      sclk := false
      bitcnt := s.bitcnt + 1#4
      xdone := if s.bitcnt + 1#4 = 8#4 then true else s.xdone
      device := s.device.rise s.mosi
      trace := (pulse s).trace } := by
  have hdone : (pulse s).xdone = if s.bitcnt + 1#4 = 8#4 then true else s.xdone := by
    rw [pulse_xdone, transferComplete, Bool.or_comm]
    by_cases h : s.bitcnt + 1#4 = 8#4 <;> simp [h]
  apply State.ext
  case sr => exact shiftConcat_eq_append s.sr s.pinMiso
  case xdone => exact hdone
  all_goals rfl

/-! ## SELECT and DESELECT -/

theorem select_of_high (hi : s.inited = true) (hcs : s.csN = true) :
    select s = { s with
      csN := false, idx := 0#17, seq := .load, device := s.device.select, trace := s.trace ++ [.cs false] } := by
  rw [select, setCsN, hi, hcs]
  rfl

theorem deselect_of_low (hi : s.inited = true) (hcs : s.csN = false) :
    deselect s = { s with csN := true, seq := .resp, trace := s.trace ++ [.cs true] } := by
  rw [deselect, setCsN_true, if_pos ⟨hi, hcs⟩]

end

/-- Settles O7: the fields PULSE writes, and the one bit cell it shows on the pins. -/
theorem pulseMovesOneBit : Obligations.PulseMovesOneBit := by
  intro s
  refine ⟨pulse_eq s, fun hi hl hc => ?trace⟩
  case trace => rw [pulse_trace hi hl hc, cell_eq, pinMiso_of_inited hi, List.append_assoc]

/-- Settles O8: exec in SEL is SELECT, whose level change starts a frame at the device. -/
theorem everyCommandSelects : Obligations.EveryCommandSelects :=
  fun _ _ hs hi hcs => (exec_sel hs).trans (congrArg _ (select_of_high hi hcs))

/-- Settles O9: exec in LOAD is the load of the frame byte. -/
theorem everyCommandLoads : Obligations.EveryCommandLoads := by
  intro i b s hs hb
  rw [exec_load hs hb, xferLoad, setSr, pinEvent_eq_ite]

/-- Settles O10: with no Timeout due exec in SHIFT counts the poll and asks the clock source. -/
theorem everyCommandPolls : Obligations.EveryCommandPolls := by
  intro i s hs hx hne u
  obtain ⟨ht, -⟩ | ⟨-, ht⟩ := xferPoll_split s
  · exact absurd ht hne
  · rw [exec_poll hs hx, ht]
    rfl

/-- Settles O12: exec in DESEL is DESELECT. -/
theorem everyCommandDeselects : Obligations.EveryCommandDeselects :=
  fun _ _ hs hi hcs => (exec_desel hs).trans (congrArg _ (deselect_of_low hi hcs))

/-- Settles O26: with a Timeout due exec in SHIFT is fault entry, which closes the open frame. -/
theorem timeoutFaultsEveryCommand : Obligations.TimeoutFaultsEveryCommand := by
  intro i s hs hx hdue hi hcs hclk
  obtain ⟨-, ht⟩ | ⟨hne, -⟩ := xferPoll_split s
  · rw [exec_poll hs hx, ht, raise_of_low hclk, if_pos ⟨hi, hcs⟩, List.append_assoc]
    rfl
  · exact absurd hdue hne

end Sys2Proof.Machine
end

section
/-! Each command's own engine steps (42_register_protocol.md R110 to R126, R134, 43_init.md R141): acceptance, the bytes loaded,
where a received byte goes, and at which position the frame ends. -/

namespace Sys2Proof.Machine

section
variable {s : State} {i : Instr} {k : Nat}

/-- After INIT acceptance latches the three fields of every other command (R134). -/
theorem exec_accept (hs : s.seq = .idle) (hi : s.inited = true) (hop : i.opcode ≠ 0x0#4) :
    exec i s = .next { s with op := i.opcode, addr := i.addr, wdata := i.data, seq := .sel } := by
  rw [exec_idle hs]
  obtain ⟨h0, -⟩ | ⟨-, -, ht⟩ | ⟨-, h0, -⟩ := acceptOf_cases i s
  · exact absurd h0 hop
  · rw [ht]
  · simp [hi] at h0

theorem frameIndex_eq_iff (n : FrameIndex) (hk : k < 2 ^ 17) : n = BitVec.ofNat 17 k ↔ n.toNat = k := by
  bv_omega

/-- A collect ends a frame of `k + 1` bytes at position `k` and at no other, wrapped or not. -/
theorem exec_collect_at (hs : s.seq = .shift) (hx : s.xdone = true)
    (hlen : (frameOf i s.params.dummy).length = k + 1) :
    exec i s = .next { deliver ((commandOf i s.params.dummy).route s.idx.toNat) s.sr s with
      idx := s.idx + 1#17, seq := if s.idx.toNat = k then .desel else .load } := by
  have hk : k + 1 ≤ 65537 := hlen ▸ frameOf_length_le i s.params.dummy
  have hlast : (s.idx + 1#17).toNat = (commandOf i s.params.dummy).frame.length ↔ s.idx.toNat = k := by
    rw [← frameOf, hlen]
    bv_omega
  rw [exec_collect hs hx, xferCollect]
  simp only [hlast]

/-- A write command's collect only moves on. -/
theorem exec_collect_dropping (hs : s.seq = .shift) (hx : s.xdone = true)
    (hroute : (commandOf i s.params.dummy).route = routeNone) (hlen : (frameOf i s.params.dummy).length = k + 1) :
    exec i s = .next { s with idx := s.idx + 1#17, seq := if s.idx = BitVec.ofNat 17 k then .desel else .load } := by
  have hk : k + 1 ≤ 65537 := hlen ▸ frameOf_length_le i s.params.dummy
  rw [exec_collect_at hs hx hlen, hroute]
  simp only [frameIndex_eq_iff s.idx (show k < 2 ^ 17 by omega)]
  rfl

/-- The bytes of a frame of one byte and `n` dummies. -/
theorem getElem?_cons_replicate (b d : Byte) {n : Nat} (h : k ≤ n) :
    (b :: List.replicate n d)[k]? = some (if k = 0 then b else d) := by
  cases k with
  | zero => rfl
  | succ k => simp [show k < n by omega]

end

/-- Settles O14: INIT latches the soft-reset write, whose three bytes are sent with every received byte dropped. -/
theorem initEngineSteps : Obligations.InitEngineSteps := by
  intro a v s
  refine ⟨fun hs hcs hclk => ?accept, fun hs b hb => exec_load hs hb, fun hs hx => exec_collect_dropping hs hx rfl rfl,
    fun hs => (everyCommandResponds _ s hs).1⟩
  case accept => exact (exec_idle hs).trans (congrArg _ (acceptInit_of_rest hcs hclk))

/-- Settles O15: WR8 sends three bytes and keeps none. -/
theorem wr8EngineSteps : Obligations.Wr8EngineSteps := by
  intro a v s
  refine ⟨fun hs hi => exec_accept hs hi (by simp [Instr.opcode]), fun hs b hb => exec_load hs hb, fun hs hx => exec_collect_dropping hs hx rfl rfl,
    fun hs => (everyCommandResponds _ s hs).1⟩

/-- Settles O16: WR16 sends four bytes and keeps none. -/
theorem wr16EngineSteps : Obligations.Wr16EngineSteps := by
  intro a v s
  refine ⟨fun hs hi => exec_accept hs hi (by simp [Instr.opcode]), fun hs b hb => exec_load hs hb, fun hs hx => exec_collect_dropping hs hx rfl rfl,
    fun hs => (everyCommandResponds _ s hs).1⟩

/-- Settles O17: RD8 keeps the byte at position 2, its last. -/
theorem rd8EngineSteps : Obligations.Rd8EngineSteps := by
  intro a v s
  refine ⟨fun hs hi => exec_accept hs hi (by simp [Instr.opcode]), fun hs b hb => exec_load hs hb, fun hs hx => ?collect,
    fun hs => (everyCommandResponds _ s hs).1⟩
  case collect =>
    have hlast := frameIndex_eq_iff (k := 2) s.idx (by decide)
    have hroute : (commandOf (.rd8 a v) s.params.dummy).route = routeRd8 := rfl
    rw [exec_collect_at (i := .rd8 a v) (k := 2) hs hx rfl, hroute, routeRd8]
    simp only [hlast]
    by_cases h2 : s.idx.toNat = 2
    · simp only [h2, if_true]
      rfl
    · simp only [h2, if_false]
      rfl

/-- Settles O18: RD16 keeps the byte at position 2 as the low one and that at position 3, its last, as the high one. -/
theorem rd16EngineSteps : Obligations.Rd16EngineSteps := by
  intro a v s
  refine ⟨fun hs hi => exec_accept hs hi (by simp [Instr.opcode]), fun hs b hb => exec_load hs hb, fun hs hx => ?collect,
    fun hs => (everyCommandResponds _ s hs).1⟩
  case collect =>
    have hlow := frameIndex_eq_iff (k := 2) s.idx (by decide)
    have hlast := frameIndex_eq_iff (k := 3) s.idx (by decide)
    have hroute : (commandOf (.rd16 a v) s.params.dummy).route = routeRd16 := rfl
    rw [exec_collect_at (i := .rd16 a v) (k := 3) hs hx rfl, hroute, routeRd16]
    simp only [hlow, hlast]
    by_cases h2 : s.idx.toNat = 2
    · simp only [h2, if_true]
      rfl
    · by_cases h3 : s.idx.toNat = 3
      · simp only [h3, if_true]
        rfl
      · simp only [h2, h3, if_false]
        rfl

/-- Settles O19: RDFIFO's byte at position 0 is its command byte; each later one is a dummy, and what comes back with it is
streamed. -/
theorem rdfifoEngineSteps : Obligations.RdfifoEngineSteps := by
  intro a n s
  have hfirst := frameIndex_eq_iff (k := 0) s.idx (by decide)
  refine ⟨fun hs hi => exec_accept hs hi (by simp [Instr.opcode]), fun hs hle => ?load, fun hs hx => ?collect,
    fun hs => (everyCommandResponds _ s hs).1⟩
  case load =>
    simp only [hfirst]
    exact exec_load (i := .rdfifo a n) hs (getElem?_cons_replicate _ _ hle)
  case collect =>
    have hroute : (commandOf (.rdfifo a n) s.params.dummy).route = routeFifo := rfl
    rw [exec_collect_at (i := .rdfifo a n) (k := n.toNat) hs hx (by simp), hroute, routeFifo]
    simp only [hfirst]
    by_cases h0 : s.idx.toNat = 0
    · simp only [h0, if_true]
      rfl
    · have h1 : 1 ≤ s.idx.toNat := by omega
      simp only [h0, h1, if_true, if_false]
      rfl

/-- Settles O20: RDBURST's bytes at positions 0 and 1 are its command byte and address; each later one is a dummy, and what
comes back with it is streamed. -/
theorem rdburstEngineSteps : Obligations.RdburstEngineSteps := by
  intro a n s
  have hfirst := frameIndex_eq_iff (k := 0) s.idx (by decide)
  have hsecond := frameIndex_eq_iff (k := 1) s.idx (by decide)
  refine ⟨fun hs hi => exec_accept hs hi (by simp [Instr.opcode]), fun hs hle => ?load, fun hs hx => ?collect,
    fun hs => (everyCommandResponds _ s hs).1⟩
  case load =>
    simp only [hfirst, hsecond]
    refine exec_load (i := .rdburst a n) hs ?_
    rw [frameOf_rdburst]
    cases hk : s.idx.toNat with
    | zero => rfl
    | succ k => simp [getElem?_cons_replicate a s.params.dummy (n := n.toNat) (k := k) (by omega)]
  case collect =>
    have hroute : (commandOf (.rdburst a n) s.params.dummy).route = routeBurst := rfl
    rw [exec_collect_at (i := .rdburst a n) (k := n.toNat + 1) hs hx (by simp), hroute, routeBurst]
    by_cases h2 : s.idx.toNat < 2
    · simp only [h2, if_true, Nat.not_le.mpr h2, if_false]
      rfl
    · simp only [h2, if_true, Nat.not_lt.mp h2, if_false]
      rfl

end Sys2Proof.Machine
end

section
/-! The step as the spec's table names it (42_register_protocol.md R137), FAULT (60_exceptions.md R157), reset
(70_reset_and_hazards.md R170 to R172), and the pins (10_state.md R18, R19, R30). -/

namespace Sys2Proof.Machine

section
variable {s t : State}

/-! ## Reset -/

theorem step_rst (hr : 0 < s.rst) (h : step s = .next t) : t = applyReset s := by
  obtain ⟨-, ⟨-, ht⟩ | ⟨h0, -⟩⟩ := step_next h
  · exact ht
  · omega

/-- That the pins stop being driven is no streamed byte and no response. -/
theorem views_oe (driven old new b : Bool) :
    streamed (pinEvent driven old new (.oe b)) = [] ∧ responses (pinEvent driven old new (.oe b)) = [] := by
  unfold pinEvent
  split <;> exact ⟨rfl, rfl⟩

end

/-! ## Acceptance with a longer frame behind -/

/-- INIT done, IDX at the end of its three bytes, and `RDFIFO 0`, a frame of one byte, on the port (V20). -/
def longFrameBehind : State :=
  { State.reset with
    inited := true, op := 0x1#4, addr := 0x1F#8, wdata := 0x0052#16, idx := 3#17
    cmds := [encode (.rdfifo 0x00#8 0x0000#16)] }

/-- Settles O32: the reset state keeps the default configuration and every latch at rest. -/
theorem resetMeetsTheInvariant : Obligations.ResetMeetsTheInvariant where
  framed := rfl
  configured := nofun
  clockLow := rfl
  bitsBound := Nat.zero_le _
  doneFull := nofun
  notDone := nofun
  faulted := iff_of_false (fun h => h rfl) nofun
  latched := nofun
  indexed := nofun
  indexBound _ := Nat.zero_le _
  indexRange := Nat.zero_le _
  pollsShape := rfl
  pollsBound := nofun

theorem longFrameBehind_inv : longFrameBehind.Inv :=
  { resetMeetsTheInvariant with
    configured := nofun
    latched := nofun
    indexed := nofun
    indexBound := fun _ => by decide
    indexRange := by decide }

/-- Settles O35: from `longFrameBehind` the acceptance of `RDFIFO 0` leaves IDX at 3, past the one byte of the new frame. -/
theorem acceptMayLeaveIdxPastTheFrame : Obligations.AcceptMayLeaveIdxPastTheFrame := by
  have hstep : step longFrameBehind =
      .next (acceptOf (.rdfifo 0x00#8 0x0000#16) { quiet longFrameBehind with cmds := [] }) :=
    step_idle_encode (s := longFrameBehind) rfl rfl rfl rfl
  exact ⟨longFrameBehind, _, longFrameBehind_inv, hstep, by decide, rfl, by decide⟩

/-- Settles O21: the two phases in which a step runs a command. -/
theorem stepRunsTheDecodedCommand : Obligations.StepRunsTheDecodedCommand :=
  fun _ _ hc hr => ⟨fun _ _ hs hw hd => step_idle_run hc hr hs hw hd, fun hb hi => step_busy hc hr hb hi⟩

/-- Settles O27: in FAULT a step only clears the ports, and the invariant gives the rest levels. -/
theorem faultIsQuiescent : Obligations.FaultIsQuiescent := by
  intro s hc hr hs
  refine ⟨step_fault hc hr hs, by simp [State.stBusy, hs], by simp [State.cmdReady, hs], fun hInv => ?rest⟩
  case rest =>
    have hcs : s.csN = true := by rw [hInv.framed, not_inFrame_iff.mpr (.inr (.inr (.inr hs))), Bool.not_false]
    exact ⟨hcs, hInv.clockLow, hInv.faulted.mpr hs⟩

/-- Settles O28: the step is the reset, whose values are read off. -/
theorem resetStep : Obligations.ResetStep := by
  intro s hc hr
  have hpolls : (applyReset s).pollCount = 0 := pollCount_fresh (p := s.params) rfl
  exact ⟨applyReset s, step_reset hc hr, rfl, rfl, rfl, hpolls, rfl, rfl, rfl, rfl, rfl, rfl, rfl, rfl, rfl, rfl, rfl, rfl⟩

/-- Settles O29: the values are those of the state's definition. -/
theorem resetState : Obligations.ResetState :=
  ⟨rfl, rfl, rfl, rfl, rfl, rfl, rfl, rfl, rfl, rfl, rfl, rfl, rfl, rfl, rfl⟩

/-- Settles O30: the reset copies the environment, and of the trace only `OE(0)` may be new. -/
theorem resetKeepsTheOutside : Obligations.ResetKeepsTheOutside := by
  intro s t hr h
  obtain rfl := step_rst hr h
  have htrace : (applyReset s).trace = s.trace ++ pinEvent true s.inited false (.oe false) := rfl
  obtain ⟨hstream, hresponse⟩ := views_oe true s.inited false false
  refine ⟨rfl, rfl, rfl, rfl, ?stream, ?response, rfl⟩
  case stream => rw [htrace, streamed_append, hstream, List.append_nil]
  case response => rw [htrace, responses_append, hresponse, List.append_nil]

/-- Settles O40: each pin asks INITED first. -/
theorem pinsFollowInited : Obligations.PinsFollowInited := by
  intro s
  refine ⟨fun h => ?undriven, fun h => ⟨?cs, ?clock, h, fun hl => ?mosi, fun hd => ?pulledUp, fun b bits hd => ?driven⟩⟩
  case undriven => simp [State.pinCsN, State.pinSclk, State.pinMosi, State.pullUp, h]
  case cs => rw [State.pinCsN, if_pos h]
  case clock => rw [State.pinSclk, if_pos h]
  case mosi => rw [State.pinMosi, if_pos h, State.mosi, if_pos hl, BitVec.msb_eq_getLsbD_last]
  case pulledUp => rw [pinMiso_of_inited h, hd, Device.miso_undriven]
  case driven => rw [pinMiso_of_inited h, hd, Device.miso_script]

end Sys2Proof.Machine
end

section
/-! The device (40_shift_engine.md R84): what one engine step can do to it, and that only a pulse reads what it drives. -/

namespace Sys2Proof.Machine

section
variable {s t : State} {i : Instr}

/-! ## What a step does to the device -/

/-- What an engine step from `s` to `t` can do to the device. -/
inductive DeviceStep (s t : State) : Prop
  | untouched (same : t.device = s.device)
  /-- The falling edge of chip-select that starts a frame. -/
  | selected (framed : t.device = s.device.select)
  /-- The rising clock edge of a pulse. -/
  | clocked (before : s.seq = .shift) (unfinished : s.xdone = false) (edge : ∃ b, t.device = s.device.rise b)

@[simp] theorem raise_device_same (f : BusFault) (s : State) : (raise f s).device = s.device := by
  rw [raise_device, Bool.not_true, Bool.and_false, if_neg Bool.false_ne_true]

@[simp] theorem deselect_device_same (s : State) : (deselect s).device = s.device := by
  rw [deselect_device, Bool.not_true, Bool.and_false, if_neg Bool.false_ne_true]

@[simp] theorem acceptOf_device (i : Instr) (s : State) : (acceptOf i s).device = s.device := by
  obtain ⟨-, ht⟩ | ⟨-, -, ht⟩ | ⟨-, -, ht⟩ := acceptOf_cases i s <;> rw [ht]
  · rw [acceptInit, setCsN_true]
    rfl
  · exact raise_device_same _ s

@[simp] theorem deliver_device (r : Route) (b : Byte) (s : State) : (deliver r b s).device = s.device := by
  cases r with
  | drop | rdataZext | rdataHigh | stream => rfl

theorem xferCollect_device (c : Command) (s : State) : (xferCollect c s).device = s.device :=
  deliver_device (c.route s.idx.toNat) s.sr s

/-- The clock source's answer decides whether the device sees an edge. -/
theorem pollClock_device (s : State) :
    (pollClock s).device = s.device ∨ ∃ b, (pollClock s).device = s.device.rise b := by
  unfold pollClock
  split
  · exact .inr ⟨_, pulse_device _⟩
  · exact .inl rfl

theorem exec_device (h : exec i s = .next t) : DeviceStep s t := by
  obtain ⟨-, rfl⟩ | ⟨-, rfl⟩ | ⟨-, b, -, rfl⟩ | ⟨hs, hx, rfl⟩ | ⟨-, -, rfl⟩ | ⟨-, rfl⟩ | ⟨-, rfl⟩ | ⟨-, rfl⟩ :=
    exec_next h
  · exact .untouched (acceptOf_device i s)
  · by_cases hedge : (s.inited && s.csN && !false) = true
    · exact .selected (by rw [select_device, if_pos hedge])
    · exact .untouched (by rw [select_device, if_neg hedge])
  · exact .untouched rfl
  · obtain ⟨-, ht⟩ | ⟨-, ht⟩ := xferPoll_split s <;> rw [ht]
    · exact .untouched (raise_device_same _ s)
    · obtain hstall | hedge := pollClock_device (pollCounted s)
      · exact .untouched hstall
      · exact .clocked hs hx hedge
  · exact .untouched (xferCollect_device _ s)
  · exact .untouched (deselect_device_same s)
  · exact .untouched rfl
  · exact .untouched rfl

/-- Every step's device is the one before, or what an engine step makes of it. -/
theorem step_device (h : step s = .next t) : DeviceStep s t := by
  obtain ⟨-, ⟨-, rfl⟩ | ⟨-, ⟨-, rfl⟩ | ⟨-, -, rfl⟩ | ⟨-, w, ws, -, ⟨e, -, rfl⟩ | ⟨i, -, rfl⟩⟩ | ⟨-, i, -, hexec⟩⟩⟩ :=
    step_next h
  · exact .untouched rfl
  · exact .untouched rfl
  · exact .untouched rfl
  · exact .untouched (raise_device_same _ _)
  · exact .untouched (acceptOf_device i _)
  · cases exec_device hexec with
    | untouched same => exact .untouched same
    | selected framed => exact .selected framed
    | clocked before unfinished edge => exact .clocked before unfinished edge

theorem DeviceStep.wf (h : DeviceStep s t) (hwf : s.device.wf) : t.device.wf := by
  cases h with
  | untouched same => rwa [same]
  | selected framed =>
    rw [framed]
    exact Device.select_wf _ hwf
  | clocked _ _ edge =>
    obtain ⟨b, hb⟩ := edge
    rw [hb]
    exact Device.rise_wf _ b hwf

/-- A register changes only where a poll's eighth edge stores. -/
theorem DeviceStep.peek (h : DeviceStep s t) {k : Nat}
    (hk : s.seq = .shift → s.xdone = false → s.device.storeAddr ≠ some k) : t.device.peek k = s.device.peek k := by
  cases h with
  | untouched same => rw [same]
  | selected framed => rw [framed, Device.select_peek]
  | clocked before unfinished edge =>
    obtain ⟨b, hb⟩ := edge
    rw [hb, Device.rise_peek _ b k (hk before unfinished)]

/-! ## The parameters -/

@[simp] theorem acceptOf_params (i : Instr) (s : State) : (acceptOf i s).params = s.params := by
  obtain ⟨-, ht⟩ | ⟨-, -, ht⟩ | ⟨-, -, ht⟩ := acceptOf_cases i s <;> rw [ht] <;> rfl

theorem step_params (h : step s = .next t) : t.params = s.params := by
  obtain ⟨-, ⟨-, rfl⟩ | ⟨-, ⟨-, rfl⟩ | ⟨-, -, rfl⟩ | ⟨-, w, ws, -, ⟨e, -, rfl⟩ | ⟨i, -, rfl⟩⟩ | ⟨hb, i, -, hexec⟩⟩⟩ :=
    step_next h
  · rfl
  · rfl
  · rfl
  · rfl
  · exact acceptOf_params i _
  · exact (exec_sameCommand (s := quiet s) (seq_of_busy hb).1 hexec).params

/-! ## Another device on the bus -/

section
variable (d : Device)

theorem acceptOf_with_device (i : Instr) (s : State) :
    ∃ e, acceptOf i { s with device := d } = { acceptOf i s with device := e } := by
  have hcommand (op : BitVec 4) (a : Byte) (v : Half) :
      ∃ e, acceptCommand op a v { s with device := d } = { acceptCommand op a v s with device := e } := by
    unfold acceptCommand
    dsimp only
    split
    · exact ⟨_, rfl⟩
    · exact ⟨_, rfl⟩
  cases i with
  | init a v => exact ⟨_, rfl⟩
  | wr8 a v | wr16 a v | rd8 a v | rd16 a v | rdfifo a v | rdburst a v => exact hcommand _ _ _

theorem xferCollect_with_device (c : Command) (s : State) :
    xferCollect c { s with device := d } = { xferCollect c s with device := d } := by
  unfold xferCollect
  dsimp only
  cases c.route s.idx.toNat with
  | drop | rdataZext | rdataHigh | stream => rfl

/-- A poll that is answered false, or is the Timeout fault, reads no bit. -/
theorem xferPoll_with_device (ha : s.clock.answer s.draws = false) :
    ∃ e, xferPoll { s with device := d } = { xferPoll s with device := e } := by
  have hstall (u : State) (hu : u.clock.answer u.draws = false) :
      ∃ e, pollClock { u with device := d } = { pollClock u with device := e } := by
    rw [pollClock_stall hu, pollClock_stall (s := { u with device := d }) hu]
    exact ⟨d, rfl⟩
  have hcount : State.pollCount { s with device := d } = s.pollCount := rfl
  unfold xferPoll
  dsimp only
  rw [hcount]
  split
  · exact hstall s ha
  · split
    · exact ⟨_, rfl⟩
    · exact hstall (countPoll s) ha

/-- An engine step without a pulse is the same with another device, but for the device. -/
theorem exec_with_device (h : exec i s = .next t)
    (hp : s.seq ≠ .shift ∨ s.xdone = true ∨ s.clock.answer s.draws = false) :
    ∃ e, exec i { s with device := d } = .next { t with device := e } := by
  obtain ⟨hs, rfl⟩ | ⟨hs, rfl⟩ | ⟨hs, b, hb, rfl⟩ | ⟨hs, hx, rfl⟩ | ⟨hs, hx, rfl⟩ | ⟨hs, rfl⟩ | ⟨hs, rfl⟩ | ⟨hs, rfl⟩ :=
    exec_next h
  · obtain ⟨e, he⟩ := acceptOf_with_device d i s
    exact ⟨e, by rw [← he]; exact exec_idle hs⟩
  · exact ⟨_, exec_sel hs⟩
  · exact ⟨_, exec_load hs hb⟩
  · have ha : s.clock.answer s.draws = false :=
      (hp.resolve_left (not_not.mpr hs)).resolve_left (by simp [hx])
    obtain ⟨e, he⟩ := xferPoll_with_device d ha
    exact ⟨e, by rw [← he]; exact exec_poll hs hx⟩
  · exact ⟨d, by rw [← xferCollect_with_device]; exact exec_collect hs hx⟩
  · exact ⟨_, exec_desel hs⟩
  · exact ⟨_, exec_resp hs⟩
  · exact ⟨_, exec_fault hs⟩

end

end

/-- Settles O44: a reset, a wait and fault entry read nothing from the bus, and an engine step only by a pulse. -/
theorem dataInIsReadOnlyByPulses : Obligations.DataInIsReadOnlyByPulses := by
  intro s t d h hp
  obtain ⟨hc, ⟨hr, rfl⟩ | ⟨hr, ⟨hs, rfl⟩ | ⟨hs, hw, rfl⟩ | ⟨hs, w, ws, hw, ⟨e, hd, rfl⟩ | ⟨i, hd, rfl⟩⟩ |
    ⟨hb, i, hi, hexec⟩⟩⟩ := step_next h
  · exact ⟨_, step_reset (s := { s with device := d }) hc hr⟩
  · exact ⟨_, step_fault (s := { s with device := d }) hc hr hs⟩
  · exact ⟨_, step_idle_wait (s := { s with device := d }) hc hr hs hw⟩
  · exact ⟨_, step_idle_illegal (s := { s with device := d }) hc hr hs hw hd⟩
  · obtain ⟨e, he⟩ := acceptOf_with_device d i { quiet s with cmds := ws }
    have hstep := step_idle_run (s := { s with device := d }) hc hr hs hw hd
    exact ⟨e, hstep.trans (by rw [← he]; exact exec_idle hs)⟩
  · obtain ⟨e, he⟩ := exec_with_device (s := quiet s) d hexec (hp.resolve_left (by omega))
    exact ⟨e, (step_busy (s := { s with device := d }) hc hr hb hi).trans he⟩

/-- Settles O45: no operation writes the parameters; the device is left, selected or clocked, and each keeps the canonical
form. -/
theorem stepKeepsParametersAndMemoryForm : Obligations.StepKeepsParametersAndMemoryForm :=
  fun _ _ h => ⟨step_params h, (step_device h).wf⟩

end Sys2Proof.Machine
end

section
/-! The frame of a command's engine step (42_register_protocol.md section 1): what all seven leave alone, and which of RDATA and
the stream port each kind of command may write. -/

namespace Sys2Proof.Machine

section
variable {s t : State} {i : Instr}

/-! ## What every command leaves alone -/

/-- What an engine step of any command from `s` to `t` leaves alone. -/
structure EngineFrame (s t : State) : Prop where
  params : t.params = s.params
  rst : t.rst = s.rst
  cmds : t.cmds = s.cmds
  latches : s.seq ≠ .idle → t.op = s.op ∧ t.addr = s.addr ∧ t.wdata = s.wdata ∧ t.inited = s.inited
  transfer : s.seq ≠ .shift → t.bitcnt ≠ s.bitcnt ∨ t.sr ≠ s.sr ∨ t.xdone ≠ s.xdone → s.seq = .load
  environment : s.seq ≠ .shift → t.latch = s.latch ∧ t.clock = s.clock ∧ t.draws = s.draws
  fault : t.err ≠ s.err → t.seq = .fault
  registers : ∀ k : Nat, (s.seq = .shift → s.xdone = false → s.device.storeAddr ≠ some k) →
    t.device.peek k = s.device.peek k

theorem EngineFrame.fields (frame : EngineFrame s t) (hs : s.seq ≠ .idle) :
    t.op = s.op ∧ t.addr = s.addr ∧ t.wdata = s.wdata := by
  obtain ⟨hop, haddr, hdata, -⟩ := frame.latches hs
  exact ⟨hop, haddr, hdata⟩

/-- The registers of SHIFT, and what it asks the clock source. -/
structure SameTransfer (s t : State) : Prop where
  bitcnt : t.bitcnt = s.bitcnt
  sr : t.sr = s.sr
  xdone : t.xdone = s.xdone
  latch : t.latch = s.latch
  clock : t.clock = s.clock
  draws : t.draws = s.draws

/-- Acceptance writes nothing outside PROTO, the pin latches and the two output ports. -/
theorem acceptOf_frame (i : Instr) (s : State) :
    SameTransfer s (acceptOf i s) ∧
      (acceptOf i s).params = s.params ∧ (acceptOf i s).rst = s.rst ∧ (acceptOf i s).cmds = s.cmds := by
  obtain ⟨-, ht⟩ | ⟨-, -, ht⟩ | ⟨-, -, ht⟩ := acceptOf_cases i s <;> rw [ht]
  · exact ⟨⟨rfl, rfl, rfl, rfl, rfl, rfl⟩, rfl, rfl, rfl⟩
  · exact ⟨⟨rfl, rfl, rfl, rfl, rfl, rfl⟩, rfl, rfl, rfl⟩
  · exact ⟨⟨rfl, rfl, rfl, rfl, rfl, rfl⟩, rfl, rfl, rfl⟩

/-- Outside LOAD and SHIFT no transfer is touched. -/
theorem exec_sameTransfer (hl : s.seq ≠ .load) (hs : s.seq ≠ .shift) (h : exec i s = .next t) : SameTransfer s t := by
  obtain ⟨-, rfl⟩ | ⟨-, rfl⟩ | ⟨hload, -⟩ | ⟨hshift, -⟩ | ⟨hshift, -⟩ | ⟨-, rfl⟩ | ⟨-, rfl⟩ | ⟨-, rfl⟩ := exec_next h
  · exact (acceptOf_frame i s).1
  · exact ⟨rfl, rfl, rfl, rfl, rfl, rfl⟩
  · exact absurd hload hl
  · exact absurd hshift hs
  · exact absurd hshift hs
  · exact ⟨rfl, rfl, rfl, rfl, rfl, rfl⟩
  · exact ⟨rfl, rfl, rfl, rfl, rfl, rfl⟩
  · exact ⟨rfl, rfl, rfl, rfl, rfl, rfl⟩

/-- A load starts a transfer and asks the clock source nothing. -/
theorem exec_load_environment (hl : s.seq = .load) (h : exec i s = .next t) :
    t.latch = s.latch ∧ t.clock = s.clock ∧ t.draws = s.draws := by
  cases hb : (frameOf i s.params.dummy)[s.idx.toNat]? with
  | none =>
    rw [exec_load_none hl hb] at h
    contradiction
  | some b =>
    rw [exec_load hl hb] at h
    injection h with h
    subst h
    exact ⟨rfl, rfl, rfl⟩

theorem exec_params_rst_cmds (h : exec i s = .next t) : t.params = s.params ∧ t.rst = s.rst ∧ t.cmds = s.cmds := by
  by_cases hs : s.seq = .idle
  · rw [exec_idle hs] at h
    injection h with h
    exact h ▸ (acceptOf_frame i s).2
  · have hsame := exec_sameCommand hs h
    exact ⟨hsame.params, hsame.rst, hsame.cmds⟩

theorem exec_frame (h : exec i s = .next t) : EngineFrame s t := by
  obtain ⟨hparams, hrst, hcmds⟩ := exec_params_rst_cmds h
  refine ⟨hparams, hrst, hcmds, fun hs => ?latches, fun hs => ?transfer, fun hs => ?environment, fun herr => ?fault,
    fun k hk => (exec_device h).peek hk⟩
  case latches =>
    have hsame := exec_sameCommand hs h
    exact ⟨hsame.op, hsame.addr, hsame.wdata, hsame.inited⟩
  case transfer =>
    intro hchanged
    by_contra hl
    have hsame := exec_sameTransfer hl hs h
    simp [hsame.bitcnt, hsame.sr, hsame.xdone] at hchanged
  case environment =>
    by_cases hl : s.seq = .load
    · exact exec_load_environment hl h
    · have hsame := exec_sameTransfer hl hs h
      exact ⟨hsame.latch, hsame.clock, hsame.draws⟩
  case fault =>
    obtain hsame | ⟨-, f, rfl⟩ := exec_err h
    · exact absurd hsame herr
    · rfl

/-- Only INIT's acceptance writes INITED. -/
theorem exec_inited (hop : i.opcode ≠ 0x0#4) (h : exec i s = .next t) : t.inited = s.inited := by
  by_cases hs : s.seq = .idle
  · rw [exec_idle hs] at h
    injection h with h
    obtain ⟨h0, -⟩ | ⟨-, -, ht⟩ | ⟨-, -, ht⟩ := acceptOf_cases i s
    · exact absurd h0 hop
    · rw [← h, ht]
    · rw [← h, ht, raise_inited]
  · exact (exec_sameCommand hs h).inited

/-! ## RDATA and the stream port -/

@[simp] theorem pollClock_rdata (s : State) : (pollClock s).rdata = s.rdata := by
  unfold pollClock
  split
  · rw [pulse_rdata]
  · rfl

@[simp] theorem pollClock_sb (s : State) : (pollClock s).sb = s.sb := by
  unfold pollClock
  split
  · rw [pulse_sb]
  · rfl

/-- RDATA and the stream port are written by the delivery of a received byte, or not at all. -/
theorem exec_delivers (h : exec i s = .next t) :
    (t.rdata = s.rdata ∧ t.sb = s.sb) ∨
    (s.seq = .shift ∧ s.xdone = true ∧
      t.rdata = (deliver ((commandOf i s.params.dummy).route s.idx.toNat) s.sr s).rdata ∧
      t.sb = (deliver ((commandOf i s.params.dummy).route s.idx.toNat) s.sr s).sb) := by
  obtain ⟨-, rfl⟩ | ⟨-, rfl⟩ | ⟨-, b, -, rfl⟩ | ⟨-, -, rfl⟩ | ⟨hs, hx, rfl⟩ | ⟨-, rfl⟩ | ⟨-, rfl⟩ | ⟨-, rfl⟩ :=
    exec_next h
  · obtain ⟨-, ht⟩ | ⟨-, -, ht⟩ | ⟨-, -, ht⟩ := acceptOf_cases i s <;> rw [ht] <;> exact .inl ⟨rfl, rfl⟩
  · exact .inl ⟨rfl, rfl⟩
  · exact .inl ⟨rfl, rfl⟩
  · obtain ⟨-, ht⟩ | ⟨-, ht⟩ := xferPoll_split s <;> rw [ht]
    · exact .inl ⟨rfl, rfl⟩
    · exact .inl ⟨pollClock_rdata _, pollClock_sb _⟩
  · exact .inr ⟨hs, hx, rfl, rfl⟩
  · exact .inl ⟨rfl, rfl⟩
  · exact .inl ⟨rfl, rfl⟩
  · exact .inl ⟨rfl, rfl⟩

/-- A command that drops every byte writes neither. -/
theorem exec_dropping (hroute : (commandOf i s.params.dummy).route = routeNone) (h : exec i s = .next t) :
    t.rdata = s.rdata ∧ t.sb = s.sb := by
  obtain hsame | ⟨-, -, hrdata, hsb⟩ := exec_delivers h
  · exact hsame
  · rw [hroute] at hrdata hsb
    exact ⟨hrdata, hsb⟩

/-- A command that keeps bytes at positions 2 and 3, for RDATA alone. -/
theorem exec_reading (hkept : ∀ k, ((commandOf i s.params.dummy).route k).kept = true → k = 2 ∨ k = 3)
    (hroute : ∀ k, (commandOf i s.params.dummy).route k ≠ .stream) (h : exec i s = .next t) :
    (t.rdata ≠ s.rdata → s.seq = .shift ∧ s.xdone = true ∧ (s.idx = 2#17 ∨ s.idx = 3#17)) ∧ t.sb = s.sb := by
  obtain ⟨hrdata, hsb⟩ | ⟨hs, hx, hrdata, hsb⟩ := exec_delivers h
  · exact ⟨fun hne => absurd hrdata hne, hsb⟩
  · have hpos (hk : ((commandOf i s.params.dummy).route s.idx.toNat).kept = true) : s.idx = 2#17 ∨ s.idx = 3#17 :=
      (hkept _ hk).imp (frameIndex_eq_iff s.idx (by decide)).mpr (frameIndex_eq_iff s.idx (by decide)).mpr
    cases hr : (commandOf i s.params.dummy).route s.idx.toNat with
    | drop =>
      rw [hr] at hrdata hsb
      exact ⟨fun hne => absurd hrdata hne, hsb⟩
    | rdataZext | rdataHigh =>
      rw [hr] at hpos hsb
      exact ⟨fun _ => ⟨hs, hx, hpos rfl⟩, hsb⟩
    | stream => exact absurd hr (hroute _)

/-- A command that streams bytes after position 0, and keeps no other. -/
theorem exec_streaming (hroute : ∀ k, (commandOf i s.params.dummy).route k = .drop ∨
      ((commandOf i s.params.dummy).route k = .stream ∧ k ≠ 0)) (h : exec i s = .next t) :
    t.rdata = s.rdata ∧
      (t.sb ≠ s.sb → s.seq = .shift ∧ s.xdone = true ∧ s.idx ≠ 0#17 ∧ t.sb = some s.sr) := by
  obtain ⟨hrdata, hsb⟩ | ⟨hs, hx, hrdata, hsb⟩ := exec_delivers h
  · exact ⟨hrdata, fun hne => absurd hsb hne⟩
  · obtain hr | ⟨hr, hpos⟩ := hroute s.idx.toNat <;> rw [hr] at hrdata hsb
    · exact ⟨hrdata, fun hne => absurd hsb hne⟩
    · exact ⟨hrdata, fun _ => ⟨hs, hx, fun h0 => hpos (by rw [h0]; rfl), hsb⟩⟩

theorem routeRd8_ne_stream (k : Nat) : routeRd8 k ≠ .stream := by
  unfold routeRd8
  split <;> simp

theorem routeRd16_ne_stream (k : Nat) : routeRd16 k ≠ .stream := by
  unfold routeRd16
  split
  · simp
  · split <;> simp

theorem routeFifo_cases (k : Nat) : routeFifo k = .drop ∨ (routeFifo k = .stream ∧ k ≠ 0) := by
  unfold routeFifo
  split
  · exact .inr ⟨rfl, by omega⟩
  · exact .inl rfl

theorem routeBurst_cases (k : Nat) : routeBurst k = .drop ∨ (routeBurst k = .stream ∧ k ≠ 0) := by
  unfold routeBurst
  split
  · exact .inr ⟨rfl, by omega⟩
  · exact .inl rfl

end

/-- Settles O46: the frame every command has, and the writes drop every byte. -/
theorem writeCommandsFrame : Obligations.WriteCommandsFrame := by
  intro a v s t h
  obtain ⟨frame, hrdata, hsb⟩ : EngineFrame s t ∧ t.rdata = s.rdata ∧ t.sb = s.sb := by
    obtain h | h | h := h <;> exact ⟨exec_frame h, exec_dropping rfl h⟩
  exact ⟨hrdata, hsb, frame.params, frame.rst, frame.cmds, frame.latches, frame.transfer, frame.environment, frame.fault,
    frame.registers⟩

/-- Settles O47: the frame every command has, and the reads keep bytes for RDATA alone. -/
theorem readCommandsFrame : Obligations.ReadCommandsFrame := by
  intro a v s t h
  obtain ⟨frame, hinited, hrdata, hsb⟩ : EngineFrame s t ∧ t.inited = s.inited ∧
      (t.rdata ≠ s.rdata → s.seq = .shift ∧ s.xdone = true ∧ (s.idx = 2#17 ∨ s.idx = 3#17)) ∧ t.sb = s.sb := by
    obtain h | h := h
    · exact ⟨exec_frame h, exec_inited (by simp [Instr.opcode]) h,
        exec_reading (i := .rd8 a v) (fun k hk => .inl ((routeRd8_kept k).mp hk)) routeRd8_ne_stream h⟩
    · exact ⟨exec_frame h, exec_inited (by simp [Instr.opcode]) h,
        exec_reading (i := .rd16 a v) (fun k hk => (routeRd16_kept k).mp hk) routeRd16_ne_stream h⟩
  exact ⟨hrdata, hsb, frame.params, frame.rst, frame.cmds, hinited, frame.fields, frame.transfer, frame.environment, frame.fault,
    frame.registers⟩

/-- Settles O48: the frame every command has, and the streaming reads stream bytes after the first. -/
theorem streamCommandsFrame : Obligations.StreamCommandsFrame := by
  intro a n s t h
  obtain ⟨frame, hinited, hrdata, hsb⟩ : EngineFrame s t ∧ t.inited = s.inited ∧ t.rdata = s.rdata ∧
      (t.sb ≠ s.sb → s.seq = .shift ∧ s.xdone = true ∧ s.idx ≠ 0#17 ∧ t.sb = some s.sr) := by
    obtain h | h := h
    · exact ⟨exec_frame h, exec_inited (by simp [Instr.opcode]) h, exec_streaming (i := .rdfifo a n) routeFifo_cases h⟩
    · exact ⟨exec_frame h, exec_inited (by simp [Instr.opcode]) h, exec_streaming (i := .rdburst a n) routeBurst_cases h⟩
  exact ⟨hrdata, hsb, frame.params, frame.rst, frame.cmds, hinited, frame.fields, frame.transfer, frame.environment, frame.fault,
    frame.registers⟩

end Sys2Proof.Machine
end

section
/-! One XFER (40_shift_engine.md R80 to R92): nine steps without stalls move a byte each way and show eight clock cycles, and
stalls add steps and nothing else. -/

namespace Sys2Proof.Machine

section
variable {s t : State} {i : Instr} {b : Byte}

/-! ## A transfer without stalls -/

/-- Command `i` is in LOAD with the pins driven and at rest, and nothing interrupts. -/
structure Loading (i : Instr) (s : State) : Prop where
  loading : s.seq = .load
  released : s.rst = 0
  configured : s.params.wellFormed = true
  latched : s.inFlight = some i
  driven : s.inited = true
  rest : s.sclk = false

/-- The state after a load of `b` and eight pulses. -/
def transferred (b : Byte) (s : State) : State := afterPulses (xferLoad b (quiet s)) 8

/-- The bits a transfer of `b` samples. -/
def sampledBits (b : Byte) (s : State) : List Bool := (listen s.device s.draws b 8).1

@[simp] theorem sampledBits_length (b : Byte) (s : State) : (sampledBits b s).length = 8 := listen_length _ _ _ _

/-- The events of a transfer of `b`. -/
def transferEvents (b : Byte) (s : State) : List Event :=
  pinEvent s.inited s.mosi b.msb (.mosi b.msb) ++ cells b (sampledBits b s)

theorem transferred_trace (b : Byte) (s : State) :
    (transferred b s).trace = s.trace ++ transferEvents b s := List.append_assoc _ _ _

/-- The load steps to the start of a transfer, where polls come next. -/
theorem step_load (h : Loading i s) (hb : (frameOf i s.params.dummy)[s.idx.toNat]? = some b) :
    step s = .next (xferLoad b (quiet s)) := by
  have hbusy : s.stBusy = true := by simp [State.stBusy, h.loading]
  exact (step_busy h.configured h.released hbusy h.latched).trans (exec_load (s := quiet s) h.loading hb)

theorem polling_xferLoad (h : Loading i s) (b : Byte) : Polling (xferLoad b (quiet s)) where
  shifting := rfl
  released := h.released
  configured := h.configured
  latched := Option.isSome_iff_exists.mpr ⟨i, h.latched⟩
  driven := h.driven
  loaded := rfl
  rest := h.rest

/-- No TIMEOUT the model runs is spent by the eight polls of a transfer without stalls (R88). -/
theorem runFor_transfer (h : Loading i s) (hn : s.neverStalls)
    (hb : (frameOf i s.params.dummy)[s.idx.toNat]? = some b) : runFor 9 s = .next (transferred b s) := by
  rw [runFor_succ_of_next (step_load h hb)]
  refine runFor_pulses 8 (polling_xferLoad h b) rfl (by simp) (by decide) (fun n hn => ?_) hn
  have htimeout : s.params.timeout = some n := hn
  have hpolls : (xferLoad b (quiet s)).pollCount = 0 := pollCount_fresh (p := s.params) rfl
  have hrunnable : 8 ≤ n := by simpa [Params.wellFormed, htimeout] using h.configured
  omega

theorem transferred_sr (b : Byte) (s : State) : (transferred b s).sr = shiftAll b (sampledBits b s) := rfl

/-! ## What a transfer shows -/

/-- Redriving MOSI is no byte event, no sample and no clock cycle. -/
theorem mosi_views (driven old new b : Bool) :
    streamed (pinEvent driven old new (.mosi b)) = [] ∧ responses (pinEvent driven old new (.mosi b)) = [] ∧
      clockCycles (pinEvent driven old new (.mosi b)) = 0 ∧ mosiAtEdges (pinEvent driven old new (.mosi b)) = [] ∧
      ∀ es, byteEvents (pinEvent driven old new (.mosi b) ++ es) = byteEvents es := by
  unfold pinEvent
  split <;> exact ⟨rfl, rfl, rfl, rfl, fun _ => rfl⟩

/-- A transfer reads back as one `XF`, eight clock cycles and the bits of the byte sent. -/
theorem transferEvents_views (b : Byte) (s : State) (es : List Event) :
    byteEvents (transferEvents b s ++ es) = .xf b (transferred b s).sr :: byteEvents es ∧
      clockCycles (transferEvents b s) = 8 ∧ mosiAtEdges (transferEvents b s) = bitsOf b ∧
      streamed (transferEvents b s) = [] ∧ responses (transferEvents b s) = [] := by
  obtain ⟨mstream, mresponse, mcycles, mlevels, mbytes⟩ := mosi_views s.inited s.mosi b.msb b.msb
  obtain ⟨cstream, cresponse, ccycles, clevels⟩ := cells_views b (sampledBits b s)
  have hlen := sampledBits_length b s
  refine ⟨?bytes, ?cycles, ?levels, ?stream, ?response⟩
  case bytes => rw [transferEvents, List.append_assoc, mbytes, byteEvents_cells b _ hlen, transferred_sr]
  case cycles => rw [transferEvents, clockCycles_append, mcycles, ccycles, hlen]
  case levels => rw [transferEvents, mosiAtEdges_append, mlevels, clevels, levels_eight b _ hlen, List.nil_append]
  case stream => rw [transferEvents, streamed_append, mstream, cstream, List.nil_append]
  case response => rw [transferEvents, responses_append, mresponse, cresponse, List.nil_append]

/-- The pin events of a bit cell: a clock cycle, and MOSI where it changes (R90). -/
theorem pinEvents_cell (b : Byte) (m : Bool) :
    pinEvents (cell b m) =
      [Event.sclk true, Event.sclk false] ++
        if b.getLsbD 7 = b.getLsbD 6 then [] else [Event.mosi (b.getLsbD 6)] := by
  rw [cell_eq]
  split <;> rfl

theorem pinEvents_mosi (driven old new b : Bool) :
    pinEvents (pinEvent driven old new (.mosi b)) = pinEvent driven old new (.mosi b) := by
  unfold pinEvent
  split <;> rfl

end

/-- Settles O49: the device's eight bits are what SR holds after the transfer, and the byte's own bits are what it shows. -/
theorem transferMovesOneByte : Obligations.TransferMovesOneByte := by
  intro i s out inp rest hs hr hc hi hd hclk hn hb hdev
  have hrun := runFor_transfer ⟨hs, hr, hc, hi, hd, hclk⟩ hn hb
  have hlisten : listen s.device s.draws out 8 = (bitsOf inp, .script rest) := by
    rw [hdev]
    exact listen_script out s.draws (bitsOf inp) rest
  have hsr : (transferred out s).sr = inp := by
    rw [transferred_sr, sampledBits, hlisten, shiftAll_bitsOf]
  have hdevice : (transferred out s).device = .script rest := congrArg Prod.snd hlisten
  obtain ⟨hbytes, hcycles, hlevels, -, -⟩ := transferEvents_views out s []
  rw [hsr, List.append_nil] at hbytes
  exact ⟨_, _, hrun, transferred_trace out s, hsr, rfl, rfl, rfl, hclk, rfl, rfl, rfl, hdevice, hbytes, hlevels, hcycles⟩

/-- Settles O50: before the `k`-th rising edge the two highest bits of SR are those of the byte sent from position `k` on. -/
theorem transferPinTrace : Obligations.TransferPinTrace := by
  intro i s out m1 m2 m3 m4 m5 m6 m7 m8 rest hs hr hc hi hd hclk hn hb hdev redrive cycle
  have hrun := runFor_transfer ⟨hs, hr, hc, hi, hd, hclk⟩ hn hb
  have hbits : sampledBits out s = [m1, m2, m3, m4, m5, m6, m7, m8] := by
    rw [sampledBits, hdev]
    exact congrArg Prod.fst (listen_script out s.draws [m1, m2, m3, m4, m5, m6, m7, m8] rest)
  refine ⟨_, _, hrun, transferred_trace out s, ?_⟩
  rw [transferEvents, hbits, pinEvents_append, pinEvents_mosi, hd, pinEvent_driven, BitVec.msb_eq_getLsbD_last]
  simp [cells, pinEvents_cell, redrive, cycle]

section
variable {s t : State} {i : Instr} {b : Byte}

/-! ## A transfer with stalls -/

/-- A clock source that gives these answers, at whatever polls, and is then `c'`. -/
def Clock.Gives : Clock → List Bool → Clock → Prop
  | c, [], c' => c = c'
  | c, a :: as, c' => (∀ n, c.answer n = a) ∧ c.advance.Gives as c'

theorem Clock.script_gives (answers : List Bool) (after : Bool) :
    (Clock.script answers after).Gives answers (.script [] after) := by
  induction answers with
  | nil => exact rfl
  | cons a as ih => exact ⟨fun _ => rfl, ih⟩

theorem Clock.free_running_gives (k : Nat) :
    (Clock.script [] true).Gives (List.replicate k true) (.script [] true) := by
  induction k with
  | zero => exact rfl
  | succ k ih => exact ⟨fun _ => rfl, ih⟩

/-- The same block with another clock source and another number of polls gone by. -/
def withClock (c : Clock) (n : Nat) (s : State) : State := { s with clock := c, draws := n }

/-- Inside a transfer with no TIMEOUT, on a device that does not depend on the poll count. -/
structure Sampling (s : State) : Prop extends Polling s where
  untimed : s.params.timeout = none
  regular : s.device ≠ .oracle
  silent : s.rsp = none ∧ s.sb = none
  counted : s.xdone = (s.bitcnt.toNat == 8)

/-- Only an oracle looks at the number of the poll. -/
theorem Device.miso_regular {d : Device} (h : d ≠ .oracle) (m n : Nat) : d.miso m = d.miso n := by
  cases d with
  | oracle => exact absurd rfl h
  | script bits => cases bits <;> rfl
  | fixture f => rfl

theorem Device.rise_regular {d : Device} (h : d ≠ .oracle) (b : Bool) : d.rise b ≠ .oracle := by
  cases d with
  | oracle => exact absurd rfl h
  | script bits | fixture f => exact nofun

theorem mosi_of_loaded (h : s.srLoaded = true) : s.mosi = s.sr.msb := if_pos h

/-- A pulse asks neither the clock source nor, on such a device, the number of the poll. -/
theorem pulse_withClock (h : Sampling s) (c : Clock) (n : Nat) :
    pulse (withClock c n s) = withClock c n (pulse s) := by
  have hmiso : (withClock c n s).pinMiso = s.pinMiso := by
    rw [pinMiso_of_inited h.driven, pinMiso_of_inited (s := withClock c n s) h.driven]
    exact Device.miso_regular h.regular _ _
  have hmosi : (withClock c n s).mosi = s.mosi :=
    (mosi_of_loaded (s := withClock c n s) h.loaded).trans (mosi_of_loaded h.loaded).symm
  have htrace : (pulse (withClock c n s)).trace = (pulse s).trace := by
    rw [pulse_trace h.driven h.loaded h.rest, pulse_trace (s := withClock c n s) h.driven h.loaded h.rest,
      ← pinMiso_of_inited h.driven, ← pinMiso_of_inited (s := withClock c n s) h.driven, hmiso]
    rfl
  apply State.ext
  case sr => exact congrArg s.sr.shiftConcat hmiso
  case latch => exact hmiso
  case device => exact congrArg s.device.rise hmosi
  case trace => exact htrace
  all_goals rfl

theorem Sampling.pulse (h : Sampling s) (hx : s.xdone = false) : Sampling (pulse s) where
  shifting := h.shifting
  released := h.released
  configured := h.configured
  latched := h.latched
  driven := h.driven
  loaded := rfl
  rest := rfl
  untimed := h.untimed
  regular := Device.rise_regular h.regular _
  silent := h.silent
  counted := by
    rw [pulse_xdone, hx, Bool.false_or, Bool.eq_iff_iff, transferComplete_iff, beq_iff_eq, pulse_bitcnt]

/-- A poll with the ports silent and no TIMEOUT is the clock source's answer alone. -/
theorem Sampling.step_eq (h : Sampling s) (hx : s.xdone = false) : step s = .next (pollClock s) := by
  obtain ⟨i, hi⟩ := Option.isSome_iff_exists.mp h.latched
  have hbusy : s.stBusy = true := by simp [State.stBusy, h.shifting]
  have hquiet : quiet s = s := by
    rw [quiet, ← h.silent.1, ← h.silent.2]
  rw [step_busy h.configured h.released hbusy hi, hquiet, exec_poll h.shifting hx, xferPoll_untimed h.untimed]

/-- The block after this many pulses, whatever the clock source. -/
def pulsed (k : Nat) (s : State) : State := pulse^[k] s

/-- However the eight true answers are spread among the polls, up to the last one of them the block has made its missing
pulses. -/
theorem runFor_answers {c c' : Clock} {answers : List Bool} (hg : c.Gives answers c') (h : Sampling s)
    (hcount : s.bitcnt.toNat + answers.count true = 8) (hlast : ∀ a, answers.getLast? = some a → a = true) (n : Nat) :
    runFor answers.length (withClock c n s) =
      .next (withClock c' (n + answers.length) (pulsed (answers.count true) s)) := by
  induction answers generalizing s c n with
  | nil =>
    obtain rfl : c = c' := hg
    rfl
  | cons a as ih =>
    obtain ⟨ha, hg⟩ := hg
    have hlast' (x : Bool) (hx : as.getLast? = some x) : x = true := by
      refine hlast x ?_
      rw [List.getLast?_cons, hx]
      rfl
    have hleft : 0 < (a :: as).count true := by
      have hne := List.cons_ne_nil a as
      have htrue := hlast _ (List.getLast?_eq_some_getLast hne)
      exact List.count_pos_iff.mpr (htrue ▸ List.getLast_mem hne)
    have hbits : s.bitcnt.toNat < 8 := by omega
    have hx : s.xdone = false := by
      rw [h.counted, beq_eq_false_iff_ne]
      omega
    have hclocked : Sampling (withClock c n s) := { h with }
    have hdraws : n + (a :: as).length = n + 1 + as.length := by
      rw [List.length_cons]
      omega
    rw [hdraws]
    cases a with
    | false =>
      have hstep : step (withClock c n s) = .next (withClock c.advance (n + 1) s) := by
        rw [hclocked.step_eq hx, pollClock_stall (ha n)]
        rfl
      rw [List.length_cons, runFor_succ_of_next hstep, ih hg h (by simpa using hcount) hlast' (n + 1)]
      simp
    | true =>
      have hstep : step (withClock c n s) = .next (withClock c.advance (n + 1) (pulse s)) := by
        rw [hclocked.step_eq hx, ← pulse_withClock h]
        unfold pollClock
        rw [if_pos (show (withClock c n s).clock.answer (withClock c n s).draws = true from ha n)]
        rfl
      have hcount' : (pulse s).bitcnt.toNat + as.count true = 8 := by
        rw [pulse_bitcnt, bitcnt_succ hbits]
        simp at hcount
        omega
      rw [List.length_cons, runFor_succ_of_next hstep, ih hg (h.pulse hx) hcount' hlast' (n + 1), List.count_cons_self]
      rfl

end

/-- Settles O51: with and without stalls the load is followed by the same eight pulses. -/
theorem stallsChangeNothing : Obligations.StallsChangeNothing := by
  intro i s answers after hs hr ht hi hd hclk hdev hidx hcount hlast
  have hc : s.params.wellFormed = true := by simp [Params.wellFormed, ht]
  rw [frameLength_of_inFlight hi] at hidx
  have hb := List.getElem?_eq_getElem hidx
  generalize (frameOf i s.params.dummy)[s.idx.toNat] = b at hb
  have hload (c : Clock) :
      step { s with clock := c } = .next (withClock c s.draws (xferLoad b (quiet s))) :=
    step_load (s := { s with clock := c }) ⟨hs, hr, hc, hi, hd, hclk⟩ hb
  have hsampling : Sampling (xferLoad b (quiet s)) :=
    { polling_xferLoad (s := s) (i := i) ⟨hs, hr, hc, hi, hd, hclk⟩ b with
      untimed := ht
      regular := hdev
      silent := ⟨rfl, rfl⟩
      counted := rfl }
  have hstalled := runFor_answers (Clock.script_gives answers after) hsampling (by simpa using hcount)
    (fun a ha => by rw [hlast] at ha; injection ha with ha; exact ha.symm) s.draws
  have hsteady := runFor_answers (Clock.free_running_gives 8) hsampling (by simp) (by simp) s.draws
  rw [hcount] at hstalled
  rw [List.length_replicate, List.count_replicate_self] at hsteady
  generalize pulsed 8 (xferLoad b (quiet s)) = u at hstalled hsteady
  rw [Nat.add_comm 1]
  exact ⟨_, _, (runFor_succ_of_next (hload _)).trans hstalled, (runFor_succ_of_next (hload _)).trans hsteady, rfl⟩

end Sys2Proof.Machine
end

section
/-! A whole command without stalls (41_cs_framing.md R102, 42_register_protocol.md R136): acceptance and SELECT, one transfer and
collect per frame byte, DESELECT and the response. -/

namespace Sys2Proof.Machine

/-! ## Traces read from front to back -/

/-- How a piece of trace that starts and ends between two bytes reads back. -/
structure Reads (es : List Event) (bytes : List ByteEvent) (cycles : Nat) (stream : List Byte)
    (answers : List Response) : Prop where
  bytes : ∀ rest, byteEvents (es ++ rest) = bytes ++ byteEvents rest
  cycles : clockCycles es = cycles
  stream : streamed es = stream
  answers : responses es = answers

section
variable {es fs : List Event} {bytes bytes' : List ByteEvent} {cycles cycles' : Nat} {stream stream' : List Byte}
  {answers answers' : List Response}

theorem Reads.append (h : Reads es bytes cycles stream answers) (h' : Reads fs bytes' cycles' stream' answers') :
    Reads (es ++ fs) (bytes ++ bytes') (cycles + cycles') (stream ++ stream') (answers ++ answers') where
  bytes rest := by rw [List.append_assoc, h.bytes, h'.bytes, List.append_assoc]
  cycles := by rw [clockCycles_append, h.cycles, h'.cycles]
  stream := by rw [streamed_append, h.stream, h'.stream]
  answers := by rw [responses_append, h.answers, h'.answers]

theorem Reads.nil : Reads [] [] 0 [] [] := ⟨fun _ => rfl, rfl, rfl, rfl⟩

theorem reads_oe (inited : Bool) :
    Reads (if inited = true then [] else [.oe true]) (if inited = true then [] else [.oe]) 0 [] [] := by
  cases inited with
  | true => exact .nil
  | false => exact ⟨fun _ => rfl, rfl, rfl, rfl⟩

theorem reads_select : Reads [.cs false] [.sel] 0 [] [] := ⟨fun _ => rfl, rfl, rfl, rfl⟩

theorem reads_deselect : Reads [.cs true] [.desel] 0 [] [] := ⟨fun _ => rfl, rfl, rfl, rfl⟩

theorem reads_respond (r : Response) : Reads [.respond r] [] 0 [] [r] := ⟨fun _ => rfl, rfl, rfl, rfl⟩

/-- The events of a whole command: those of its frame's bytes, between the events that open and close it. -/
def commandEvents (inited : Bool) (es : List Event) (r : Response) : List Event :=
  (if inited = true then [] else [Event.oe true]) ++ ([Event.cs false] ++ (es ++ [Event.cs true, Event.respond r]))

theorem Reads.framed {outs ins : List Byte} (h : Reads es (List.zipWith ByteEvent.xf outs ins) cycles stream [])
    (inited : Bool) (r : Response) :
    Reads (commandEvents inited es r)
      ((if inited = true then [] else [ByteEvent.oe]) ++ frameTrace outs ins) cycles stream [r] := by
  have hclose := h.append (reads_deselect.append (reads_respond r))
  simpa [frameTrace, commandEvents] using (reads_oe inited).append (reads_select.append hclose)

theorem reads_transfer (b : Byte) (s : State) :
    Reads (transferEvents b s) [.xf b (transferred b s).sr] 8 [] [] := by
  obtain ⟨-, hcycles, -, hstream, hanswers⟩ := transferEvents_views b s []
  exact ⟨fun rest => (transferEvents_views b s rest).1, hcycles, hstream, hanswers⟩

end

/-! ## What becomes of the received bytes -/

/-- What a device answers to these frame bytes, byte by byte, and what becomes of it; `n` polls were made before. -/
def exchange (d : Device) (n : Nat) : List Byte → List Byte × Device
  | [] => ([], d)
  | b :: bs =>
    let r := listen d n b 8
    let e := exchange r.2 (n + 8) bs
    (shiftAll b r.1 :: e.1, e.2)

theorem exchange_length (d : Device) (n : Nat) (bs : List Byte) : (exchange d n bs).1.length = bs.length := by
  induction bs generalizing d n with
  | nil => rfl
  | cons b bs ih => simp [exchange, ih]

/-- RDATA after the byte at one position is delivered. -/
def rdataAfter (r : Route) (b : Byte) (v : Half) : Half :=
  match r with
  | .drop | .stream => v
  | .rdataZext => zextByte b
  | .rdataHigh => joinBytes (lowByte v) b

/-- RDATA after the bytes from position `k` on are delivered. -/
def collectedRdata (route : Nat → Route) (k : Nat) (v : Half) : List Byte → Half
  | [] => v
  | b :: bs => collectedRdata route (k + 1) (rdataAfter (route k) b v) bs

/-- The bytes streamed out of those received from position `k` on. -/
def collectedStream (route : Nat → Route) (k : Nat) : List Byte → List Byte
  | [] => []
  | b :: bs => (if route k = .stream then [b] else []) ++ collectedStream route (k + 1) bs

/-- What a delivery adds to the trace. -/
def deliveryEvents (r : Route) (b : Byte) : List Event := if r = .stream then [.stream b] else []

section
variable {s t : State} {i : Instr} {b : Byte} {bs : List Byte} {c : Command} {ws : List Word}

theorem deliver_rdata (r : Route) (b : Byte) (s : State) : (deliver r b s).rdata = rdataAfter r b s.rdata := by
  cases r with
  | drop | rdataZext | rdataHigh | stream => rfl

theorem deliver_trace (r : Route) (b : Byte) (s : State) : (deliver r b s).trace = s.trace ++ deliveryEvents r b := by
  cases r with
  | stream => rfl
  | drop | rdataZext | rdataHigh => exact (List.append_nil _).symm

theorem reads_delivery (r : Route) (b : Byte) :
    Reads (deliveryEvents r b) [] 0 (if r = .stream then [b] else []) [] := by
  unfold deliveryEvents
  split
  · exact ⟨fun _ => rfl, rfl, rfl, rfl⟩
  · exact .nil

/-- A collect in a frame writes nothing else that outlasts it. -/
theorem deliver_rest (r : Route) (b : Byte) (s : State) :
    (deliver r b s).clock = s.clock ∧ (deliver r b s).sclk = s.sclk ∧ (deliver r b s).draws = s.draws := by
  cases r with
  | drop | rdataZext | rdataHigh | stream => exact ⟨rfl, rfl, rfl⟩

/-! ## The bytes of a frame -/

/-- Command `i` has its frame open, with the pins driven, the clock at rest and a clock source that never stalls. -/
structure Moving (i : Instr) (s : State) : Prop where
  released : s.rst = 0
  configured : s.params.wellFormed = true
  latched : s.inFlight = some i
  driven : s.inited = true
  rest : s.sclk = false
  steady : s.neverStalls

theorem Moving.loading (h : Moving i s) (hs : s.seq = .load) : Loading i s :=
  ⟨hs, h.released, h.configured, h.latched, h.driven, h.rest⟩

/-- `t` is `s` after the frame bytes `bs` of command `c` are exchanged. -/
structure Exchanged (c : Command) (bs : List Byte) (s t : State) : Prop where
  same : SameCommand s t
  err : t.err = s.err
  csN : t.csN = s.csN
  rest : t.sclk = s.sclk
  clock : t.clock = s.clock
  draws : t.draws = s.draws + 8 * bs.length
  idx : t.idx.toNat = s.idx.toNat + bs.length
  device : t.device = (exchange s.device s.draws bs).2
  rdata : t.rdata = collectedRdata c.route s.idx.toNat s.rdata (exchange s.device s.draws bs).1
  trace : ∃ es, t.trace = s.trace ++ es ∧
    Reads es (List.zipWith .xf bs (exchange s.device s.draws bs).1) (8 * bs.length)
      (collectedStream c.route s.idx.toNat (exchange s.device s.draws bs).1) []

theorem Exchanged.nil (c : Command) (s : State) : Exchanged c [] s s :=
  ⟨⟨rfl, rfl, rfl, rfl, rfl, rfl, rfl⟩, rfl, rfl, rfl, rfl, rfl, rfl, rfl, rfl, [], (List.append_nil _).symm, .nil⟩

/-- The state after one frame byte: its transfer and its collect. -/
def byteMoved (c : Command) (b : Byte) (s : State) : State := xferCollect c (quiet (transferred b s))

theorem transferred_sameCommand (b : Byte) (s : State) : SameCommand s (transferred b s) :=
  ⟨rfl, rfl, rfl, rfl, rfl, rfl, rfl⟩

theorem byteMoved_sameCommand (c : Command) (b : Byte) (s : State) : SameCommand s (byteMoved c b s) :=
  (transferred_sameCommand b s).trans ((quiet_sameCommand _).trans (xferCollect_sameCommand c _))

theorem byteMoved_trace (c : Command) (b : Byte) (s : State) :
    (byteMoved c b s).trace =
      s.trace ++ (transferEvents b s ++ deliveryEvents (c.route s.idx.toNat) (transferred b s).sr) := by
  have hcollect : (byteMoved c b s).trace =
      (deliver (c.route s.idx.toNat) (transferred b s).sr (quiet (transferred b s))).trace := rfl
  rw [hcollect, deliver_trace, quiet_trace, transferred_trace, List.append_assoc]

theorem byteMoved_device (c : Command) (b : Byte) (s : State) :
    (byteMoved c b s).device = (listen s.device s.draws b 8).2 := xferCollect_device c _

theorem byteMoved_rest (c : Command) (b : Byte) (s : State) :
    (byteMoved c b s).clock = s.clock ∧ (byteMoved c b s).sclk = s.sclk ∧ (byteMoved c b s).draws = s.draws + 8 :=
  deliver_rest (c.route s.idx.toNat) (transferred b s).sr (quiet (transferred b s))

theorem byteMoved_idx (c : Command) (b : Byte) (h : s.idx.toNat ≤ 65537) :
    (byteMoved c b s).idx.toNat = s.idx.toNat + 1 := idx_succ h

theorem byteMoved_rdata (c : Command) (b : Byte) (s : State) :
    (byteMoved c b s).rdata = rdataAfter (c.route s.idx.toNat) (transferred b s).sr s.rdata := deliver_rdata _ _ _

/-- The device's side of one frame byte, and then of the rest. -/
theorem exchange_byteMoved (c : Command) (b : Byte) (bs : List Byte) (s : State) :
    exchange s.device s.draws (b :: bs) =
      ((transferred b s).sr :: (exchange (byteMoved c b s).device (byteMoved c b s).draws bs).1,
        (exchange (byteMoved c b s).device (byteMoved c b s).draws bs).2) := by
  obtain ⟨-, -, hdraws⟩ := byteMoved_rest c b s
  rw [byteMoved_device, hdraws]
  rfl

/-- One frame byte, and then the rest of the frame. -/
theorem Exchanged.cons (hidx : s.idx.toNat < 65537) (h : Exchanged c bs (byteMoved c b s) t) :
    Exchanged c (b :: bs) s t := by
  obtain ⟨hclock, hclk, hdraws⟩ := byteMoved_rest c b s
  have hnext := byteMoved_idx c b (s := s) (by omega)
  obtain ⟨es, htrace, hreads⟩ := h.trace
  refine ⟨(byteMoved_sameCommand c b s).trans h.same, h.err.trans (xferCollect_err c _),
    h.csN.trans (xferCollect_csN c _), h.rest.trans hclk, h.clock.trans hclock, ?draws, ?idx, ?device, ?rdata,
    transferEvents b s ++ deliveryEvents (c.route s.idx.toNat) (transferred b s).sr ++ es, ?trace, ?reads⟩
  case draws =>
    rw [h.draws, hdraws, List.length_cons]
    omega
  case idx =>
    rw [h.idx, hnext, List.length_cons]
    omega
  case device => rw [h.device, exchange_byteMoved c]
  case rdata => rw [h.rdata, hnext, byteMoved_rdata, exchange_byteMoved c, collectedRdata]
  case trace => rw [htrace, byteMoved_trace, List.append_assoc]
  case reads =>
    have hbyte := (reads_transfer b s).append (reads_delivery (c.route s.idx.toNat) (transferred b s).sr)
    have hall := hbyte.append hreads
    rw [hnext] at hall
    rw [exchange_byteMoved c, List.zipWith_cons_cons, collectedStream, List.length_cons, Nat.mul_succ, Nat.add_comm]
    exact hall

theorem runFor_one (h : step s = .next t) : runFor 1 s = .next t := runFor_succ_of_next h

theorem runFor_trans {m n : Nat} {u : State} (h : runFor m s = .next t) (h' : runFor n t = .next u) :
    runFor (m + n) s = .next u := (runFor_add h).trans h'

/-- One frame byte takes ten steps: a load, eight polls and a collect. -/
theorem runFor_byte (h : Moving i s) (hs : s.seq = .load) (hb : (frameOf i s.params.dummy)[s.idx.toNat]? = some b) :
    runFor 10 s = .next (byteMoved (commandOf i s.params.dummy) b s) := by
  have hload := h.loading hs
  have hcollect : step (transferred b s) = .next (byteMoved (commandOf i s.params.dummy) b s) :=
    (step_busy (s := transferred b s) h.configured h.released rfl h.latched).trans (exec_collect rfl rfl)
  exact runFor_trans (runFor_transfer hload h.steady hb) (runFor_one hcollect)

theorem Moving.of_same (h : Moving i s) (same : SameCommand s t) (hclk : t.sclk = s.sclk) (hclock : t.clock = s.clock) :
    Moving i t where
  released := same.rst.trans h.released
  configured := same.params ▸ h.configured
  latched := same.inFlight.trans h.latched
  driven := same.inited.trans h.driven
  rest := hclk.trans h.rest
  steady := hclock.trans h.steady

/-- A command whose frame is open at some byte exchanges the bytes left of it, and is then in DESEL. -/
theorem runFor_frame (h : Moving i s) (hbs : (frameOf i s.params.dummy).drop s.idx.toNat = bs)
    (hs : s.seq = if bs = [] then .desel else .load) :
    ∃ t, runFor (10 * bs.length) s = .next t ∧ t.seq = .desel ∧ Exchanged (commandOf i s.params.dummy) bs s t := by
  induction bs generalizing s with
  | nil => exact ⟨s, rfl, hs, .nil _ s⟩
  | cons b bs ih =>
    have hlen := congrArg List.length hbs
    rw [List.length_drop, List.length_cons] at hlen
    have hmax := frameOf_length_le i s.params.dummy
    have hb : (frameOf i s.params.dummy)[s.idx.toNat]? = some b := by
      rw [← List.head?_drop, hbs, List.head?_cons]
    have hrun := runFor_byte h hs hb
    have hsame := byteMoved_sameCommand (commandOf i s.params.dummy) b s
    obtain ⟨hclock, hclk, -⟩ := byteMoved_rest (commandOf i s.params.dummy) b s
    have hnext := byteMoved_idx (commandOf i s.params.dummy) b (s := s) (by omega)
    have hphase : (byteMoved (commandOf i s.params.dummy) b s).seq = if bs = [] then .desel else .load := by
      refine (xferCollect_seq _ (quiet (transferred b s))).trans (if_congr ?_ rfl rfl)
      rw [← xferCollect_idx (commandOf i s.params.dummy), ← byteMoved, hnext, ← frameOf, ← List.length_eq_zero_iff]
      omega
    have hleft : (frameOf i (byteMoved (commandOf i s.params.dummy) b s).params.dummy).drop
        (byteMoved (commandOf i s.params.dummy) b s).idx.toNat = bs := by
      rw [hsame.params, hnext, ← List.drop_drop, hbs, List.drop_one, List.tail_cons]
    obtain ⟨t, hrest, hdesel, hexchanged⟩ := ih (h.of_same hsame hclk hclock) hleft hphase
    rw [hsame.params] at hexchanged
    refine ⟨t, ?_, hdesel, hexchanged.cons (by omega)⟩
    rw [List.length_cons, Nat.mul_succ, Nat.add_comm]
    exact runFor_trans hrun hrest

/-! ## Before and after the frame -/

/-- The command the latches hold once `i` is accepted: INIT runs as the soft-reset write (43_init.md R141). -/
def inFlightOf : Instr → Instr
  | .init _ _ => .wr8 0x1F#8 0x0052#16
  | i => i

@[simp] theorem commandOf_inFlightOf (i : Instr) (d : Byte) : commandOf (inFlightOf i) d = commandOf i d := by
  cases i with
  | init a v | wr8 a v | wr16 a v | rd8 a v | rd16 a v | rdfifo a v | rdburst a v => rfl

@[simp] theorem frameOf_inFlightOf (i : Instr) (d : Byte) : frameOf (inFlightOf i) d = frameOf i d := by
  rw [frameOf, commandOf_inFlightOf, frameOf]

/-- The state in which command `i` is accepted. -/
def accepted (i : Instr) (ws : List Word) (s : State) : State :=
  { s with
    rsp := none, sb := none, cmds := ws, inited := true
    op := (inFlightOf i).opcode, addr := (inFlightOf i).addr, wdata := (inFlightOf i).data, seq := .sel
    trace := s.trace ++ if s.inited = true then [] else [.oe true] }

theorem step_accepted (h : s.Ready) (hw : s.cmds = encode i :: ws) (hi : s.inited = true ∨ i.opcode = 0x0#4) :
    step s = .next (accepted i ws s) := by
  rw [step_idle_encode h.configured h.released h.idle hw]
  obtain ⟨hop, ht⟩ | ⟨hop, hinited, ht⟩ | ⟨hop, hnot, -⟩ := acceptOf_cases i { quiet s with cmds := ws }
  · obtain ⟨a, d, rfl⟩ := init_of_opcode hop
    rw [ht, acceptInit_of_rest (s := { quiet s with cmds := ws }) h.csHigh h.clockLow]
    rfl
  · have hinit : s.inited = true := hinited
    have hlatched : inFlightOf i = i := by
      cases i with
      | init a v => exact absurd rfl hop
      | wr8 a v | wr16 a v | rd8 a v | rd16 a v | rdfifo a v | rdburst a v => rfl
    rw [ht, accepted, hlatched, if_pos hinit, List.append_nil, ← hinit]
    rfl
  · exact absurd (hi.resolve_right hop) (Bool.eq_false_iff.mp hnot)

/-- The state in which command `i` has its frame open, before the first byte. -/
def opened (i : Instr) (ws : List Word) (s : State) : State :=
  { accepted i ws s with
    csN := false, idx := 0#17, seq := .load, device := s.device.select, trace := (accepted i ws s).trace ++ [.cs false] }

theorem runFor_opened (h : s.Ready) (hw : s.cmds = encode i :: ws) (hi : s.inited = true ∨ i.opcode = 0x0#4) :
    runFor 2 s = .next (opened i ws s) := by
  have hselect : step (accepted i ws s) = .next (opened i ws s) := by
    rw [step_busy (s := accepted i ws s) h.configured h.released rfl (commandOfFields_fields (inFlightOf i)),
      exec_sel (s := quiet (accepted i ws s)) rfl, select_of_high (s := quiet (accepted i ws s)) rfl h.csHigh]
    rfl
  exact runFor_trans (runFor_one (step_accepted h hw hi)) (runFor_one hselect)

theorem moving_opened (h : s.Ready) (hn : s.neverStalls) : Moving (inFlightOf i) (opened i ws s) where
  released := h.released
  configured := h.configured
  latched := commandOfFields_fields (inFlightOf i)
  driven := rfl
  rest := h.clockLow
  steady := hn

/-- The state in which a command has closed its frame and responded. -/
def finished (c : Command) (s : State) : State :=
  { s with
    csN := true, sb := none, rsp := some (response c s), seq := .idle
    trace := s.trace ++ [.cs true, .respond (response c s)] }

theorem runFor_finished (h : Moving i s) (hs : s.seq = .desel) (hcs : s.csN = false) :
    runFor 2 s = .next (finished (commandOf i s.params.dummy) s) := by
  have hbusy : s.stBusy = true := by simp [State.stBusy, hs]
  have hclose : step s = .next { quiet s with csN := true, seq := .resp, trace := s.trace ++ [.cs true] } := by
    rw [step_busy h.configured h.released hbusy h.latched, exec_desel (s := quiet s) hs,
      deselect_of_low (s := quiet s) h.driven hcs]
    rfl
  have hrespond : step { quiet s with csN := true, seq := .resp, trace := s.trace ++ [.cs true] } =
      .next (finished (commandOf i s.params.dummy) s) := by
    rw [step_busy (s := { quiet s with csN := true, seq := .resp, trace := s.trace ++ [.cs true] })
      h.configured h.released rfl h.latched, exec_resp rfl, respond]
    simp [finished, quiet, response]
  exact runFor_trans (runFor_one hclose) (runFor_one hrespond)

/-! ## The bytes kept -/

theorem collectedStream_of_none {route : Nat → Route} (h : ∀ k, route k ≠ .stream) (k : Nat) (bs : List Byte) :
    collectedStream route k bs = [] := by
  induction bs generalizing k with
  | nil => rfl
  | cons b bs ih => rw [collectedStream, if_neg (h k), ih, List.nil_append]

theorem collectedStream_of_all {route : Nat → Route} {k : Nat} (h : ∀ j, k ≤ j → route j = .stream) (bs : List Byte) :
    collectedStream route k bs = bs := by
  induction bs generalizing k with
  | nil => rfl
  | cons b bs ih =>
    rw [collectedStream, if_pos (h k le_rfl), ih fun j hj => h j (by omega)]
    rfl

/-- A command streams the bytes its definition names (R124, R126). -/
theorem collectedStream_eq (i : Instr) (d : Byte) (ins : List Byte) :
    collectedStream (commandOf i d).route 0 ins = streamOf i ins := by
  cases i with
  | init a v | wr8 a v | wr16 a v => exact collectedStream_of_none (route := routeNone) (fun _ => nofun) 0 ins
  | rd8 a v => exact collectedStream_of_none routeRd8_ne_stream 0 ins
  | rd16 a v => exact collectedStream_of_none routeRd16_ne_stream 0 ins
  | rdfifo a v =>
    match ins with
    | [] => rfl
    | _ :: ins => exact collectedStream_of_all (route := routeFifo) (k := 1) (fun j hj => if_pos hj) ins
  | rdburst a v =>
    match ins with
    | [] => rfl
    | [_] => rfl
    | _ :: _ :: ins => exact collectedStream_of_all (route := routeBurst) (k := 2) (fun j hj => if_pos hj) ins

@[simp] theorem lowByte_zextByte (b : Byte) : lowByte (zextByte b) = b := by
  apply BitVec.eq_of_getLsbD_eq
  intro k hk
  simp [lowByte, zextByte, hk]
  omega

/-- A command responds what its definition names (R118, R122, R136). -/
theorem response_eq_resultOf {d : Byte} {old : Half} {ins : List Byte} (hlen : ins.length = (frameOf i d).length)
    (hr : s.rdata = collectedRdata (commandOf i d).route 0 old ins) : response (commandOf i d) s = resultOf i ins := by
  cases i with
  | init a v | wr8 a v | wr16 a v | rdfifo a v | rdburst a v => exact response_of_done rfl
  | rd8 a v =>
    obtain ⟨x, y, z, rfl⟩ := List.length_eq_three.mp hlen
    rw [response_of_data rfl, hr]
    rfl
  | rd16 a v =>
    match ins, hlen with
    | [x, y, z, u], _ =>
      have hjoin : collectedRdata (commandOf (.rd16 a v) d).route 0 old [x, y, z, u] =
          joinBytes (lowByte (zextByte z)) u := rfl
      rw [response_of_data rfl, hr, hjoin, lowByte_zextByte]
      rfl

/-! ## The whole command -/

/-- What the device answers to command `i`'s whole frame, and what becomes of it. -/
def commandExchange (i : Instr) (s : State) : List Byte × Device :=
  exchange s.device.select s.draws (frameOf i s.params.dummy)

/-- `t` is `s` after command `i` ran to its response; `ws` is what the host holds after it. -/
structure Ran (i : Instr) (ws : List Word) (s t : State) : Prop where
  ready : t.Ready
  steady : t.neverStalls
  inited : t.inited = true
  params : t.params = s.params
  err : t.err = s.err
  cmds : t.cmds = ws
  device : t.device = (commandExchange i s).2
  rsp : t.rsp = some (resultOf i (commandExchange i s).1)
  trace : ∃ es, t.trace = s.trace ++ es ∧
    Reads es ((if s.inited = true then [] else [ByteEvent.oe]) ++
        frameTrace (frameOf i s.params.dummy) (commandExchange i s).1)
      (8 * (frameOf i s.params.dummy).length) (streamOf i (commandExchange i s).1)
      [resultOf i (commandExchange i s).1]

/-- A command presented to a ready block runs to its response when nothing stalls. -/
theorem runFor_command (h : s.Ready) (hn : s.neverStalls) (hw : s.cmds = encode i :: ws)
    (hi : s.inited = true ∨ i.opcode = 0x0#4) :
    ∃ t, runFor (4 + 10 * (frameOf i s.params.dummy).length) s = .next t ∧ Ran i ws s t := by
  have hopened := runFor_opened h hw hi
  have hmoving := moving_opened (i := i) (ws := ws) h hn
  have hframe : (frameOf (inFlightOf i) (opened i ws s).params.dummy).drop (opened i ws s).idx.toNat =
      frameOf i s.params.dummy := frameOf_inFlightOf i _
  have hload : (opened i ws s).seq = if frameOf i s.params.dummy = [] then .desel else .load :=
    (if_neg (frameOf_ne_nil _ i)).symm
  obtain ⟨t, hrun, hdesel, hx⟩ := runFor_frame hmoving hframe hload
  have hmoved := hmoving.of_same hx.same hx.rest hx.clock
  have hfinish := runFor_finished hmoved hdesel hx.csN
  have hparams : t.params = s.params := hx.same.params
  rw [hparams, commandOf_inFlightOf] at hfinish
  have hins : (commandExchange i s).1.length = (frameOf i s.params.dummy).length := exchange_length _ _ _
  obtain ⟨es, htrace, hreads⟩ := hx.trace
  have hrdata := hx.rdata
  rw [show (opened i ws s).params = s.params from rfl, commandOf_inFlightOf] at hreads hrdata
  have hstream : Reads es (List.zipWith .xf (frameOf i s.params.dummy) (commandExchange i s).1)
      (8 * (frameOf i s.params.dummy).length) (streamOf i (commandExchange i s).1) [] :=
    collectedStream_eq i s.params.dummy _ ▸ hreads
  have hresult : response (commandOf i s.params.dummy) t = resultOf i (commandExchange i s).1 :=
    response_eq_resultOf hins hrdata
  refine ⟨finished (commandOf i s.params.dummy) t, ?run, ?ran⟩
  case run =>
    have := runFor_trans (runFor_trans hopened hrun) hfinish
    rwa [show 4 + 10 * (frameOf i s.params.dummy).length = 2 + 10 * (frameOf i s.params.dummy).length + 2 by omega]
  case ran =>
    refine ⟨⟨rfl, hmoved.released, hmoved.configured, rfl, hmoved.rest⟩, hmoved.steady, hmoved.driven, hparams, hx.err,
      hx.same.cmds, hx.device, congrArg some hresult, _, ?trace, hstream.framed s.inited _⟩
    case trace => simp [finished, htrace, opened, accepted, hresult, commandEvents]

end

/-- Settles O53: the whole run, with the bytes the device answers as the bytes received. -/
theorem commandRunsToItsResponse : Obligations.CommandRunsToItsResponse := by
  intro i s ws hready hn hw hi
  obtain ⟨t, hrun, ran⟩ := runFor_command hready hn hw hi
  obtain ⟨es, htrace, hreads⟩ := ran.trace
  have hbytes := hreads.bytes []
  simp only [List.append_nil] at hbytes
  exact ⟨t, es, _, hrun, htrace, exchange_length _ _ _, hbytes.trans (List.append_nil _), hreads.cycles, hreads.stream,
    hreads.answers, ran.rsp, ran.ready.idle, ran.ready.csHigh, ran.ready.clockLow, ran.inited, ran.err, ran.cmds⟩

end Sys2Proof.Machine
end

section
/-! The device's side of a whole command (42_register_protocol.md R118 to R129, 95_test_vectors.md section 3.1): the bytes a
scripted device drives are the bytes received, and the fixture stores what a write sends and answers what it holds. -/

namespace Sys2Proof.Machine

section
variable {s t : State} {i : Instr} {f g : Fixture} {b : Byte} {ws : List Word}

/-! ## A scripted device -/

/-- A device that drives the bits of one byte per frame byte is heard to send those bytes. -/
theorem exchange_script (ins : List Byte) (rest : List Bool) (n : Nat) {bs : List Byte} (h : ins.length = bs.length) :
    exchange (.script (ins.flatMap bitsOf ++ rest)) n bs = (ins, .script rest) := by
  induction bs generalizing ins n with
  | nil =>
    obtain rfl := List.length_eq_zero_iff.mp h
    rfl
  | cons b bs ih =>
    match ins, h with
    | x :: ins, h =>
      have hlisten : listen (.script ((x :: ins).flatMap bitsOf ++ rest)) n b 8 =
          (bitsOf x, .script (ins.flatMap bitsOf ++ rest)) := by
        rw [List.flatMap_cons, List.append_assoc]
        exact listen_script b n (bitsOf x) _
      rw [exchange, hlisten, ih ins (n + 8) (by simpa using h), shiftAll_bitsOf]

/-! ## The fixture, byte by byte -/

/-- What the fixture answers to these frame bytes. -/
def fixtureAnswers : Fixture → List Byte → List Byte
  | _, [] => []
  | f, b :: bs => f.answer :: fixtureAnswers (f.byteDone b) bs

/-- Between two bytes the fixture takes whole bytes and answers whole bytes. -/
theorem exchange_fixture (n : Nat) (bs : List Byte) (h : f.edges = 0) :
    exchange (.fixture f) n bs = (fixtureAnswers f bs, .fixture (bs.foldl Fixture.byteDone f)) := by
  induction bs generalizing f n with
  | nil => rfl
  | cons b bs ih =>
    rw [exchange, listen_fixture f n b h, ih (n + 8) (byteDone_edges f b), shiftAll_bitsOf]
    rfl

/-- On the fixture a command's exchange is that of whole bytes from the start of a frame. -/
theorem commandExchange_fixture (i : Instr) (hd : s.device = .fixture f) :
    commandExchange i s = (fixtureAnswers f.select (frameOf i s.params.dummy),
      .fixture ((frameOf i s.params.dummy).foldl Fixture.byteDone f.select)) := by
  rw [commandExchange, hd]
  exact exchange_fixture _ _ rfl

/-- The fixture after the first two bytes of a frame with an address, about to move its first data byte. -/
def addressed (cmd a : Byte) (f : Fixture) : Fixture :=
  { f with pos := 2, cmd := cmd, ptr := a, edges := 0, heard := 0x00#8 }

/-- A data byte of a write frame is stored at the pointer, which moves on modulo 256. -/
theorem byteDone_write (hc : f.cmd = wireWrite) (hp : 2 ≤ f.pos) (b : Byte) :
    f.byteDone b = { f with
      pos := f.pos + 1, edges := 0, heard := 0x00#8
      regs := Memory.write f.regs f.ptr.toNat b
      resets := if f.ptr = 0x1F#8 ∧ b = 0x52#8 then f.resets + 1 else f.resets
      ptr := f.ptr + 1#8 } := by
  have hstore : f.storeAddr = some f.ptr.toNat := if_pos ⟨hc, hp⟩
  have hpos : f.pos ≠ 0 := by omega
  rw [Fixture.byteDone, if_neg hpos, hstore]

/-- A data byte of a read frame is the register at the pointer. -/
theorem answer_read (hc : f.cmd = wireRead) (hp : 2 ≤ f.pos) : f.answer = Memory.read f.regs f.ptr.toNat := by
  have hpos : f.pos ≠ 0 := by omega
  rw [Fixture.answer, if_neg hpos, if_pos ⟨hc, hp⟩]

/-! ## Register stores -/

theorem Memory.read_write {m : Memory} (h : Memory.wf m) (a k : Nat) (v : Byte) :
    Memory.read (Memory.write m a v) k = if k = a then v else Memory.read m k := by
  split
  · next hk => rw [hk, Memory.read_write_same m a v h]
  · next hk => exact Memory.read_write_other m a k v hk

/-- One data byte written. -/
theorem foldl_frameW1 (a v : Byte) (f : Fixture) :
    ((frameW1 a v).foldl Fixture.byteDone f.select).regs = Memory.write f.regs a.toNat v ∧
      ((frameW1 a v).foldl Fixture.byteDone f.select).resets =
        if a = 0x1F#8 ∧ v = 0x52#8 then f.resets + 1 else f.resets := by
  have hfold : (frameW1 a v).foldl Fixture.byteDone f.select = (addressed wireWrite a f).byteDone v := rfl
  rw [hfold, byteDone_write rfl le_rfl]
  exact ⟨rfl, rfl⟩

/-- Two data bytes written, the low one first. -/
theorem foldl_frameW2 (a : Byte) (v : Half) (f : Fixture) :
    ((frameW2 a v).foldl Fixture.byteDone f.select).regs =
      Memory.write (Memory.write f.regs a.toNat (lowByte v)) (a + 1#8).toNat (highByte v) := by
  have hfold : (frameW2 a v).foldl Fixture.byteDone f.select =
      ((addressed wireWrite a f).byteDone (lowByte v)).byteDone (highByte v) := rfl
  rw [hfold, byteDone_write (f := addressed wireWrite a f) rfl le_rfl, byteDone_write rfl (by simp [addressed])]
  rfl

/-- Outside write frames nothing is stored. -/
theorem byteDone_not_write (h : f.cmd ≠ wireWrite) (hp : f.pos ≠ 0) (b : Byte) :
    (f.byteDone b).regs = f.regs ∧ (f.byteDone b).cmd = f.cmd ∧ (f.byteDone b).pos ≠ 0 := by
  have hstore : f.storeAddr = none := if_neg fun hw => h hw.1
  rw [Fixture.byteDone, if_neg hp, hstore]
  dsimp only
  split
  · next hw => exact absurd hw h
  · split
    · exact ⟨rfl, rfl, Nat.succ_ne_zero _⟩
    · split <;> exact ⟨rfl, rfl, Nat.succ_ne_zero _⟩

theorem foldl_not_write (bs : List Byte) (h : f.cmd ≠ wireWrite) (hp : f.pos ≠ 0) :
    (bs.foldl Fixture.byteDone f).regs = f.regs := by
  induction bs generalizing f with
  | nil => rfl
  | cons b bs ih =>
    obtain ⟨hregs, hcmd, hpos⟩ := byteDone_not_write h hp b
    rw [List.foldl_cons, ih (hcmd ▸ h) hpos, hregs]

/-- A reading command's frame begins with a wire command that is no write (30_encoding.md R65). -/
theorem frameOf_reading (h : 3 ≤ i.opcode.toNat) (d : Byte) : ∃ b bs, frameOf i d = b :: bs ∧ b ≠ wireWrite := by
  cases i with
  | init a v | wr8 a v | wr16 a v => simp [Instr.opcode] at h
  | rd8 a v | rd16 a v | rdfifo a v | rdburst a v => exact ⟨_, _, rfl, by decide⟩

/-- A reading command leaves every register. -/
theorem foldl_reading (h : 3 ≤ i.opcode.toNat) (d : Byte) (f : Fixture) :
    ((frameOf i d).foldl Fixture.byteDone f.select).regs = f.regs := by
  obtain ⟨b, bs, hframe, hb⟩ := frameOf_reading h d
  have hfirst : f.select.byteDone b = { f.select with pos := 1, cmd := b } := rfl
  rw [hframe, List.foldl_cons, hfirst]
  exact foldl_not_write (f := { f.select with pos := 1, cmd := b }) bs hb Nat.one_ne_zero

/-! ## Whole commands on the fixture -/

/-- A command on the fixture ends with the fixture that took its frame. -/
theorem Ran.fixture (ran : Ran i ws s t) (hd : s.device = .fixture f) :
    t.device = .fixture ((frameOf i s.params.dummy).foldl Fixture.byteDone f.select) := by
  rw [ran.device, commandExchange_fixture i hd]

/-- The registers after WR8. -/
theorem Ran.wr8_regs {a : Byte} {v : Half} (ran : Ran (.wr8 a v) ws s t) (hd : s.device = .fixture f) :
    ∃ g, t.device = .fixture g ∧ g.regs = Memory.write f.regs a.toNat (lowByte v) :=
  ⟨_, ran.fixture hd, (foldl_frameW1 a (lowByte v) f).1⟩

/-- The registers after WR16. -/
theorem Ran.wr16_regs {a : Byte} {v : Half} (ran : Ran (.wr16 a v) ws s t) (hd : s.device = .fixture f) :
    ∃ g, t.device = .fixture g ∧
      g.regs = Memory.write (Memory.write f.regs a.toNat (lowByte v)) (a + 1#8).toNat (highByte v) :=
  ⟨_, ran.fixture hd, foldl_frameW2 a v f⟩

/-- RD8 answers the register at its address. -/
theorem Ran.rd8_rsp {a : Byte} {v : Half} (ran : Ran (.rd8 a v) ws s t) (hd : s.device = .fixture f) :
    t.rsp = some (.data (zextByte (Memory.read f.regs a.toNat))) := by
  have hthird : (addressed wireRead a f).answer = Memory.read f.regs a.toNat := answer_read rfl le_rfl
  rw [ran.rsp, commandExchange_fixture _ hd, ← hthird]
  rfl

/-- RD16 answers the registers at its address and at the next one modulo 256. -/
theorem Ran.rd16_rsp {a : Byte} {v : Half} (ran : Ran (.rd16 a v) ws s t) (hd : s.device = .fixture f) :
    t.rsp = some (.data (joinBytes (Memory.read f.regs a.toNat) (Memory.read f.regs (a + 1#8).toNat))) := by
  have hthird : (addressed wireRead a f).answer = Memory.read f.regs a.toNat := answer_read rfl le_rfl
  have hfourth : ((addressed wireRead a f).byteDone s.params.dummy).answer = Memory.read f.regs (a + 1#8).toNat :=
    answer_read rfl (Nat.le_succ 2)
  rw [ran.rsp, commandExchange_fixture _ hd, ← hthird, ← hfourth]
  rfl

/-- The next address is another register. -/
theorem next_address_ne (a : Byte) : a.toNat ≠ (a + 1#8).toNat := by
  bv_omega

end

/-- Settles O54: the bytes of the run are those the script holds. -/
theorem receivedBytesAreTheDevices : Obligations.ReceivedBytesAreTheDevices := by
  intro i s ws ins rest hready hn hw hi hlen hd
  obtain ⟨t, hrun, ran⟩ := runFor_command hready hn hw hi
  have hexchange : commandExchange i s = (ins, .script rest) := by
    rw [commandExchange, hd]
    exact exchange_script ins rest s.draws hlen
  obtain ⟨es, htrace, hreads⟩ := ran.trace
  have hstream := hreads.stream
  have hrsp := ran.rsp
  have hdevice := ran.device
  rw [hexchange] at hstream hrsp hdevice
  exact ⟨t, es, hrun, htrace, hrsp, hstream, hdevice⟩

/-- Settles O56: each write's frame, taken by the fixture byte by byte. -/
theorem writesStoreInTheFixture : Obligations.WritesStoreInTheFixture := by
  intro a v s ws f hready hn hd hwf
  refine ⟨fun hw => ?init, fun hi hw => ?wr8, fun hi hw => ?wr16⟩
  case init =>
    obtain ⟨t, hrun, ran⟩ := runFor_command hready hn hw (.inr rfl)
    obtain ⟨hregs, hresets⟩ := foldl_frameW1 0x1F#8 0x52#8 f
    refine ⟨t, _, hrun, ran.rsp, ran.fixture hd, hresets, fun k => ?_⟩
    rw [ran.fixture hd]
    exact congrArg some ((congrArg (Memory.read · k) hregs).trans (Memory.read_write hwf _ k _))
  case wr8 =>
    obtain ⟨t, hrun, ran⟩ := runFor_command hready hn hw (.inl hi)
    obtain ⟨g, hg, hregs⟩ := ran.wr8_regs hd
    refine ⟨t, hrun, ran.rsp, fun k => ?_⟩
    rw [hg, Device.peek, hregs, Memory.read_write hwf]
  case wr16 =>
    obtain ⟨t, hrun, ran⟩ := runFor_command hready hn hw (.inl hi)
    obtain ⟨g, hg, hregs⟩ := ran.wr16_regs hd
    refine ⟨t, hrun, ran.rsp, fun k => ?_⟩
    rw [hg, Device.peek, hregs, Memory.read_write (Memory.write_wf _ _ _ hwf a.isLt), Memory.read_write hwf]

/-- Settles O57: no reading command's frame is a write frame. -/
theorem readsLeaveTheFixtureRegisters : Obligations.ReadsLeaveTheFixtureRegisters := by
  intro i s ws f hready hn hi hd hw hop
  obtain ⟨t, hrun, ran⟩ := runFor_command hready hn hw (.inl hi)
  refine ⟨t, hrun, fun k => ?_⟩
  rw [ran.fixture hd, Device.peek, foldl_reading hop]

/-- Settles O58: the read finds the block ready again and the fixture with the bytes the write stored. -/
theorem roundTripThroughTheFixture : Obligations.RoundTripThroughTheFixture := by
  intro a v d s ws f hready hn hi hd hwf
  refine ⟨fun hw => ?byte, fun hw => ?half⟩
  case byte =>
    obtain ⟨t, hrun, ran⟩ := runFor_command hready hn hw (.inl hi)
    obtain ⟨g, hg, hregs⟩ := ran.wr8_regs hd
    obtain ⟨u, hrun', ran'⟩ := runFor_command ran.ready ran.steady ran.cmds (.inl ran.inited)
    refine ⟨u, runFor_trans hrun hrun', ?_, ran'.cmds⟩
    rw [ran'.rd8_rsp hg, hregs, Memory.read_write_same _ _ _ hwf]
  case half =>
    obtain ⟨t, hrun, ran⟩ := runFor_command hready hn hw (.inl hi)
    obtain ⟨g, hg, hregs⟩ := ran.wr16_regs hd
    obtain ⟨u, hrun', ran'⟩ := runFor_command ran.ready ran.steady ran.cmds (.inl ran.inited)
    refine ⟨u, runFor_trans hrun hrun', ?_, ran'.cmds⟩
    have hwf' := Memory.write_wf _ _ (lowByte v) hwf a.isLt
    have hlow : Memory.read g.regs a.toNat = lowByte v := by
      rw [hregs, Memory.read_write_other _ _ _ _ (next_address_ne a), Memory.read_write_same _ _ _ hwf]
    have hhigh : Memory.read g.regs (a + 1#8).toNat = highByte v := by
      rw [hregs, Memory.read_write_same _ _ _ hwf']
    rw [ran'.rd16_rsp hg, hlow, hhigh, joinBytes_lowByte_highByte]

end Sys2Proof.Machine
end

section
/-! Termination under A-CLK (40_shift_engine.md R86, 70_reset_and_hazards.md R187): with finitely many stalls ahead every engine
step of a command in flight brings its response nearer. -/

namespace Sys2Proof.Machine

section
variable {s t : State} {i : Instr} {e : BitVec 2} {ws : List Word} {answers : List Bool}

/-- The answers a clock source has listed. -/
def Clock.listed : Clock → Nat
  | .free => 0
  | .script answers _ => answers.length

/-- A bound on the engine steps to the response: the answers listed, each of which may be a stall, and the steps without
stalls, ten per frame byte. -/
def stepsLeft (s : State) : Nat :=
  s.clock.listed +
    match s.seq with
    | .sel => 10 * s.frameLength + 4
    | .load => 10 * (s.frameLength - s.idx.toNat) + 2
    | .shift => 10 * (s.frameLength - s.idx.toNat) + 1 - s.bitcnt.toNat
    | .desel => 2
    | .resp => 1
    | .idle | .fault => 0

/-- A command is in flight, no fault can come, and the clock source runs freely after the answers it has listed. ERR is `e`
and the host holds `ws`. -/
structure Underway (e : BitVec 2) (ws : List Word) (s : State) : Prop where
  busy : s.stBusy = true
  released : s.rst = 0
  untimed : s.params.timeout = none
  latched : s.inFlight.isSome = true
  indexed : s.seq = .load ∨ s.seq = .shift → s.idx.toNat < s.frameLength
  bits : s.seq = .shift → s.bitcnt.toNat ≤ 8
  bitsLeft : s.seq = .shift → s.xdone = false → s.bitcnt.toNat < 8
  clocked : ∃ answers, s.clock = .script answers true
  err : s.err = e
  cmds : s.cmds = ws

/-- The block has responded and is ready for the next word. -/
structure Responded (e : BitVec 2) (ws : List Word) (s : State) : Prop where
  idle : s.seq = .idle
  err : s.err = e
  cmds : s.cmds = ws
  rsp : s.rsp.isSome = true

/-! ## One step -/

theorem Underway.quiet (h : Underway e ws s) : Underway e ws (quiet s) := { h with }

theorem Underway.wellFormed (h : Underway e ws s) : s.params.wellFormed = true := by
  simp [Params.wellFormed, h.untimed]

/-- What is left to show of a step that keeps the command in flight, ERR and the clock source's form. -/
theorem Underway.of_same (h : Underway e ws s) (same : SameCommand s t) (herr : t.err = s.err)
    (hclock : ∃ answers, t.clock = .script answers true) (hbusy : t.stBusy = true)
    (hidx : t.seq = .load ∨ t.seq = .shift → t.idx.toNat < s.frameLength)
    (hbits : t.seq = .shift → t.bitcnt.toNat ≤ 8)
    (hleft : t.seq = .shift → t.xdone = false → t.bitcnt.toNat < 8) : Underway e ws t where
  busy := hbusy
  released := same.rst.trans h.released
  untimed := same.params ▸ h.untimed
  latched := same.inFlight ▸ h.latched
  indexed hs := same.frameLength ▸ hidx hs
  bits := hbits
  bitsLeft := hleft
  clocked := hclock
  err := herr.trans h.err
  cmds := same.cmds.trans h.cmds

/-- A poll uses up a listed answer without a pulse, or it pulses. -/
theorem pollClock_progress (hc : s.clock = .script answers true) :
    ∃ later, (pollClock s).clock = .script later true ∧
      ((later.length < answers.length ∧ (pollClock s).bitcnt = s.bitcnt ∧ (pollClock s).xdone = s.xdone) ∨
      (later.length ≤ answers.length ∧ (pollClock s).bitcnt = s.bitcnt + 1#4 ∧
        (pollClock s).xdone = (s.xdone || transferComplete (s.bitcnt + 1#4)))) := by
  have hpulse (ha : s.clock.answer s.draws = true) :
      pollClock s = pulse { s with clock := s.clock.advance, draws := s.draws + 1 } := if_pos ha
  cases answers with
  | nil =>
    have ha : s.clock.answer s.draws = true := by rw [hc, Clock.answer]
    rw [hpulse ha, hc]
    exact ⟨[], rfl, .inr ⟨le_rfl, rfl, rfl⟩⟩
  | cons a later =>
    refine ⟨later, ?_⟩
    cases a with
    | true =>
      have ha : s.clock.answer s.draws = true := by rw [hc, Clock.answer]
      rw [hpulse ha, hc]
      exact ⟨rfl, .inr ⟨Nat.le_succ _, rfl, rfl⟩⟩
    | false =>
      have ha : s.clock.answer s.draws = false := by rw [hc, Clock.answer]
      rw [pollClock_stall ha, hc]
      exact ⟨rfl, .inl ⟨Nat.lt_succ_self _, rfl, rfl⟩⟩

@[simp] theorem pollClock_idx (s : State) : (pollClock s).idx = s.idx := by
  unfold pollClock
  split
  · rw [pulse_idx]
  · rfl

/-- A poll of a transfer with pulses left. -/
theorem Underway.poll (h : Underway e ws s) (hs : s.seq = .shift) (hx : s.xdone = false) :
    Underway e ws (pollClock s) ∧ stepsLeft (pollClock s) < stepsLeft s := by
  obtain ⟨answers, hc⟩ := h.clocked
  obtain ⟨later, hlater, hprogress⟩ := pollClock_progress hc
  have hseq : (pollClock s).seq = .shift := (pollClock_seq s).trans hs
  have hidx : s.idx.toNat < s.frameLength := h.indexed (.inr hs)
  have hleft : s.bitcnt.toNat < 8 := h.bitsLeft hs hx
  have hcount : (s.bitcnt + 1#4).toNat = s.bitcnt.toNat + 1 := bitcnt_succ hleft
  refine ⟨h.of_same (pollClock_sameCommand s) (pollClock_err s) ⟨later, hlater⟩
    (by rw [State.stBusy, hseq]; rfl)
    (fun _ => by rwa [pollClock_idx]) (fun _ => ?bits) (fun _ hx' => ?left), ?nearer⟩
  case bits =>
    obtain ⟨-, hbit, -⟩ | ⟨-, hbit, -⟩ := hprogress <;> rw [hbit] <;> omega
  case left =>
    obtain ⟨-, hbit, -⟩ | ⟨-, hbit, hdone⟩ := hprogress
    · rwa [hbit]
    · rw [hdone, hx, Bool.false_or, Bool.eq_false_iff, ne_eq, transferComplete_iff] at hx'
      rw [hbit]
      omega
  case nearer =>
    simp only [stepsLeft, hseq, hs, hlater, hc, Clock.listed, pollClock_idx, (pollClock_sameCommand s).frameLength]
    obtain ⟨hfewer, hbit, -⟩ | ⟨hfewer, hbit, -⟩ := hprogress <;> rw [hbit] <;> omega

/-- The collect of a transfer that is done. -/
theorem Underway.collect (h : Underway e ws s) (hs : s.seq = .shift) {c : Command}
    (hc : c.frame.length = s.frameLength) :
    Underway e ws (xferCollect c s) ∧ stepsLeft (xferCollect c s) < stepsLeft s := by
  have hsame := xferCollect_sameCommand c s
  obtain ⟨hclock, -, -⟩ := deliver_rest (c.route s.idx.toNat) s.sr s
  have hclock : (xferCollect c s).clock = s.clock := hclock
  have hidx : s.idx.toNat < s.frameLength := h.indexed (.inr hs)
  have hbits : s.bitcnt.toNat ≤ 8 := h.bits hs
  have hmax := frameLength_le s
  have hnext : (xferCollect c s).idx.toNat = s.idx.toNat + 1 := idx_succ (n := s.idx) (by omega)
  have hseq : (xferCollect c s).seq = if s.idx.toNat + 1 = s.frameLength then .desel else .load := by
    rw [xferCollect_seq, hc, ← hnext, xferCollect_idx]
  obtain ⟨answers, hanswers⟩ := h.clocked
  by_cases hlast : s.idx.toNat + 1 = s.frameLength
  · rw [if_pos hlast] at hseq
    refine ⟨h.of_same hsame (xferCollect_err c s) ⟨answers, hclock.trans hanswers⟩
      (by rw [State.stBusy, hseq]; rfl) (hseq ▸ nofun) (hseq ▸ nofun) (hseq ▸ nofun), ?_⟩
    simp only [stepsLeft, hseq, hs, hclock]
    omega
  · rw [if_neg hlast] at hseq
    refine ⟨h.of_same hsame (xferCollect_err c s) ⟨answers, hclock.trans hanswers⟩
      (by rw [State.stBusy, hseq]; rfl) (fun _ => by omega) (hseq ▸ nofun) (hseq ▸ nofun), ?_⟩
    simp only [stepsLeft, hseq, hs, hclock, hnext, hsame.frameLength]
    omega

/-- An engine step of the command in flight is its response, or brings it nearer. -/
theorem Underway.exec (h : Underway e ws s) (hi : s.inFlight = some i) :
    ∃ t, exec i s = .next t ∧ (Responded e ws t ∨ (Underway e ws t ∧ stepsLeft t < stepsLeft s)) := by
  obtain ⟨hidle, hfault⟩ := seq_of_busy h.busy
  have hlen : s.frameLength = (frameOf i s.params.dummy).length := frameLength_of_inFlight hi
  cases hs : s.seq with
  | idle => exact absurd hs hidle
  | fault => exact absurd hs hfault
  | sel =>
    have hopen : Underway e ws (select s) := h.of_same ⟨rfl, rfl, rfl, rfl, rfl, rfl, rfl⟩ rfl h.clocked rfl
      (fun _ => frameLength_pos h.latched) nofun nofun
    refine ⟨_, exec_sel hs, .inr ⟨hopen, ?_⟩⟩
    have hsame : SameCommand s (select s) := ⟨rfl, rfl, rfl, rfl, rfl, rfl, rfl⟩
    simp [stepsLeft, hs, hsame.frameLength]
  | load =>
    have hidx := h.indexed (.inl hs)
    have hbyte := List.getElem?_eq_getElem (hlen ▸ hidx)
    have hsame (b : Byte) : SameCommand s (xferLoad b s) := ⟨rfl, rfl, rfl, rfl, rfl, rfl, rfl⟩
    refine ⟨_, exec_load hs hbyte, .inr ⟨h.of_same (hsame _) rfl h.clocked rfl (fun _ => hidx)
      (fun _ => Nat.zero_le _) (fun _ _ => Nat.zero_lt_succ _), ?_⟩⟩
    simp [stepsLeft, hs, (hsame _).frameLength]
  | shift =>
    cases hx : s.xdone with
    | false =>
      refine ⟨_, exec_poll hs hx, .inr ?_⟩
      rw [xferPoll_untimed h.untimed]
      exact h.poll hs hx
    | true => exact ⟨_, exec_collect hs hx, .inr (h.collect hs hlen.symm)⟩
  | desel =>
    refine ⟨_, exec_desel hs, .inr ⟨h.of_same ⟨rfl, rfl, rfl, rfl, rfl, rfl, rfl⟩ rfl h.clocked rfl
      nofun nofun nofun, ?_⟩⟩
    simp [stepsLeft, hs]
  | resp => exact ⟨_, exec_resp hs, .inl ⟨rfl, h.err, h.cmds, rfl⟩⟩

theorem Underway.step (h : Underway e ws s) :
    ∃ t, step s = .next t ∧ (Responded e ws t ∨ (Underway e ws t ∧ stepsLeft t < stepsLeft s)) := by
  obtain ⟨i, hi⟩ := Option.isSome_iff_exists.mp h.latched
  rw [step_busy h.wellFormed h.released h.busy hi]
  exact h.quiet.exec hi

/-! ## The run -/

theorem Underway.ends (h : Underway e ws s) : ∃ n t, runFor n s = .next t ∧ Responded e ws t := by
  induction hm : stepsLeft s using Nat.strong_induction_on generalizing s with
  | _ m ih =>
    obtain ⟨t, hstep, hdone | ⟨hunder, hless⟩⟩ := h.step
    · exact ⟨1, t, runFor_one hstep, hdone⟩
    · obtain ⟨n, u, hrun, hdone⟩ := ih (stepsLeft t) (hm ▸ hless) hunder rfl
      exact ⟨n + 1, u, (runFor_succ_of_next hstep).trans hrun, hdone⟩

theorem underway_accepted (h : s.Ready) (ht : s.params.timeout = none) (hc : s.clock = .script answers true) :
    Underway s.err ws (accepted i ws s) where
  busy := rfl
  released := h.released
  untimed := ht
  latched := Option.isSome_iff_exists.mpr ⟨_, commandOfFields_fields (inFlightOf i)⟩
  indexed := nofun
  bits := nofun
  bitsLeft := nofun
  clocked := ⟨answers, hc⟩
  err := rfl
  cmds := rfl

end

/-- Settles O55: after its acceptance a command is underway, and a command underway ends. -/
theorem commandEndsUnderAClk : Obligations.CommandEndsUnderAClk := by
  intro i s ws answers hready ht hc hw hi
  obtain ⟨n, t, hrun, hdone⟩ := (underway_accepted hready ht hc).ends
  exact ⟨n + 1, t, (runFor_succ_of_next (step_accepted hready hw hi)).trans hrun, hdone.idle, hdone.err, hdone.cmds,
    hdone.rsp⟩

end Sys2Proof.Machine
end
